-- ==== Sys2Proof/Word.lean ====
section
/-! DEFINITION. The word types of the block (00_scope.md R6): every value is an unsigned bit vector of a stated width. -/
namespace Sys2Proof

/-- `u64`: a host register, a port word, a frequency. -/
abbrev Word := BitVec 64

/-- One byte of DMEM (20_memory.md R60). -/
abbrev Byte := BitVec 8

/-- `s32`: a symbol of a node or an entry of the symbol table, in two's complement (10_state.md R22, R23). -/
abbrev Entry := BitVec 32

/-- A command word, `v[31:0]` of a write to CMD (30_encoding.md R80). -/
abbrev CmdWord := BitVec 32

end Sys2Proof
end

