-- ==== Sys2Proof/Config.lean ====
section
/-! DEFINITION. What an implementation fixes (00_scope.md R5) and the values the spec leaves free
(93_implementation_defined.md I1, I8). -/
namespace Sys2Proof

/-- The parameters of 00_scope.md R5 and the OPEN window base of 20_memory.md R69 (92_eei_decisions.md D30). They stand in
the state, so that a statement about every state is one about every parameter. -/
structure Params where
  /-- `log2(N)`, PARAM.LOG2N: `N` is a power of two. -/
  logN : Nat
  /-- `AW`: DMEM holds `2^AW` bytes. -/
  aw : Nat
  /-- `DEBUG_VERIFY`. -/
  debugVerify : Bool
  /-- `MATCH_J0`: candidate start 0 is searched while `i < window`. -/
  matchJ0 : Bool
  /-- `MATCH_TIE`: false keeps the FIRST of several longest matches, true the LAST. -/
  matchTie : Bool
  /-- `REG_BASE` (20_memory.md R69): where the platform puts the register window. -/
  regBase : Nat
deriving DecidableEq, Repr

/-- `N`, the number of symbol ids (00_scope.md R5). -/
def Params.n (p : Params) : Nat := 2 ^ p.logN

/-- `CAP = 2*N`, the capacity of the node array (00_scope.md R5). -/
def Params.cap (p : Params) : Nat := 2 * p.n

/-- `2^AW`, the number of bytes of DMEM (20_memory.md R60). -/
def Params.dmemSize (p : Params) : Nat := 2 ^ p.aw

/-- The address of the register at an offset of the window (20_memory.md R69). -/
def Params.regAddr (p : Params) (offset : Nat) : Nat := p.regBase + offset

/-- The parameters at reset: the spec's defaults `N = 32`, `DEBUG_VERIFY = 1`, `MATCH_J0 = 0`, `MATCH_TIE = 0`
(00_scope.md R5). DESIGN CHOICE (unsafe, log entry 4): `AW = 16` and `REG_BASE = 0`, which the spec leaves OPEN. -/
def Params.standard : Params :=
  { logN := 5, aw := 16, debugVerify := true, matchJ0 := false, matchTie := false, regBase := 0 }

/-- The host's answer to a write transaction (20_memory.md R63). -/
inductive WriteAnswer
  | ok
  | fail
deriving DecidableEq, Repr, Inhabited

/-- The host's answer to a read transaction (20_memory.md R64). -/
inductive ReadAnswer
  | word (w : Word)
  | fail
deriving DecidableEq, Repr, Inhabited

/-- FREE VALUE (93_implementation_defined.md I1, log entry 2): the host's answer to the write transaction made when
the state's list of answers has run out, by the number of free answers drawn before. -/
opaque Config.writeAnswer : Nat → WriteAnswer

/-- FREE VALUE (93_implementation_defined.md I1, log entry 2): the same for a read transaction. -/
opaque Config.readAnswer : Nat → ReadAnswer

/-- FREE VALUE (93_implementation_defined.md I8, log entry 3): what DMEM held at an address at power-on. -/
opaque Config.dmemPowerOn : Nat → Byte

end Sys2Proof
end

