-- ==== Sys2Proof/Syntax.lean ====
section
/-! DEFINITION. The commands of the block (30_encoding.md R82): one constructor per row of spec/opcode_table.json. A command
carries no operand: operands come from ARG0 to ARG2 and results go to RES0 to RES2 (30_encoding.md R80). -/
namespace Sys2Proof

/-- The 21 commands. -/
inductive Instr
  /-- HEAP.INIT (R110). -/
  | heapInit
  /-- HEAP.ADD (R111). -/
  | heapAdd
  /-- HEAP.INC (R112). -/
  | heapInc
  /-- HEAP.PATH (R113). -/
  | heapPath
  /-- HEAP.VERIFY (R114). -/
  | heapVerify
  /-- HEAP.RDNODE (R115). -/
  | heapRdnode
  /-- HEAP.RDTAB (R116). -/
  | heapRdtab
  /-- BC.OPENW (R150). -/
  | bcOpenw
  /-- BC.OPENR (R151). -/
  | bcOpenr
  /-- BC.CLOSE (R152). -/
  | bcClose
  /-- BC.WBIT (R153). -/
  | bcWbit
  /-- BC.WBITS (R154). -/
  | bcWbits
  /-- BC.WNUM (R155). -/
  | bcWnum
  /-- BC.FLUSH (R156). -/
  | bcFlush
  /-- BC.RBIT (R157). -/
  | bcRbit
  /-- BC.RBITS (R158). -/
  | bcRbits
  /-- BC.RNUM (R159). -/
  | bcRnum
  /-- CX.WHDR (R180). -/
  | cxWhdr
  /-- CX.RHDR (R181). -/
  | cxRhdr
  /-- CX.COMPRESS (R182). -/
  | cxCompress
  /-- CX.DECOMPRESS (R183). -/
  | cxDecompress
deriving DecidableEq, Repr

end Sys2Proof
end

