-- ==== Sys2Proof/WellFormed.lean ====
section
/-! DEFINITION. Well-formedness of commands (every term: a command has no operand field) and of the implementation
parameters (the legal ranges of 00_scope.md R5). -/
namespace Sys2Proof

/-- A command word carries no operand (30_encoding.md R80), so every command is well formed. -/
def Instr.wf : Instr → Bool
  | .heapInit => true
  | .heapAdd => true
  | .heapInc => true
  | .heapPath => true
  | .heapVerify => true
  | .heapRdnode => true
  | .heapRdtab => true
  | .bcOpenw => true
  | .bcOpenr => true
  | .bcClose => true
  | .bcWbit => true
  | .bcWbits => true
  | .bcWnum => true
  | .bcFlush => true
  | .bcRbit => true
  | .bcRbits => true
  | .bcRnum => true
  | .cxWhdr => true
  | .cxRhdr => true
  | .cxCompress => true
  | .cxDecompress => true

/-- `N` is a power of two with `4 <= N <= 2^30` (00_scope.md R5). -/
def Params.logNWf (p : Params) : Bool := decide (2 ≤ p.logN) && decide (p.logN ≤ 30)

/-- `1 <= AW <= 64` (00_scope.md R5). -/
def Params.awWf (p : Params) : Bool := decide (1 ≤ p.aw) && decide (p.aw ≤ 64)

/-- The parameters are legal (00_scope.md R5; the three switches are any of 0 and 1). -/
def Params.wf (p : Params) : Bool := p.logNWf && p.awWf

end Sys2Proof
end

