-- ==== Sys2Proof/Decode.lean ====
section
/-! DEFINITION. The decoder of a CMD write and the encoder of a command (30_encoding.md R80 to R84). -/
namespace Sys2Proof

/-- Why a value written to CMD names no command. -/
inductive DecodeError
  /-- OP is not assigned (30_encoding.md R84), whatever the other bits are (R81). -/
  | illegalCommand
  /-- OP is assigned and a bit of `v[63:8]` is not 0 (30_encoding.md R81). -/
  | reservedBits
deriving DecidableEq, Repr

/-- OP, `v[7:0]` (30_encoding.md R80). -/
def opField (v : Word) : BitVec 8 := v.extractLsb' 0 8

/-- The reserved bits `v[63:8]` (30_encoding.md R80). -/
def reservedField (v : Word) : BitVec 56 := v.extractLsb' 8 56

/-- The opcode map (30_encoding.md R82, R83). -/
def opTable : List (BitVec 8 × Instr) := [
  (0x01#8, .heapInit),
  (0x02#8, .heapAdd),
  (0x03#8, .heapInc),
  (0x04#8, .heapPath),
  (0x05#8, .heapVerify),
  (0x06#8, .heapRdnode),
  (0x07#8, .heapRdtab),
  (0x10#8, .bcOpenw),
  (0x11#8, .bcOpenr),
  (0x12#8, .bcClose),
  (0x13#8, .bcWbit),
  (0x14#8, .bcWbits),
  (0x15#8, .bcWnum),
  (0x16#8, .bcFlush),
  (0x17#8, .bcRbit),
  (0x18#8, .bcRbits),
  (0x19#8, .bcRnum),
  (0x20#8, .cxWhdr),
  (0x21#8, .cxRhdr),
  (0x22#8, .cxCompress),
  (0x23#8, .cxDecompress)]

/-- The command a value written to CMD names, or why it names none (30_encoding.md R81, R84): an unassigned OP is found
before a reserved bit. -/
def decode (v : Word) : Except DecodeError Instr :=
  match opTable.lookup (opField v) with
  | none => .error .illegalCommand
  | some i => if reservedField v = 0#56 then .ok i else .error .reservedBits

/-- The command word of a command (30_encoding.md R82, R90). -/
def encode : Instr → CmdWord
  | .heapInit => 0x00000001#32
  | .heapAdd => 0x00000002#32
  | .heapInc => 0x00000003#32
  | .heapPath => 0x00000004#32
  | .heapVerify => 0x00000005#32
  | .heapRdnode => 0x00000006#32
  | .heapRdtab => 0x00000007#32
  | .bcOpenw => 0x00000010#32
  | .bcOpenr => 0x00000011#32
  | .bcClose => 0x00000012#32
  | .bcWbit => 0x00000013#32
  | .bcWbits => 0x00000014#32
  | .bcWnum => 0x00000015#32
  | .bcFlush => 0x00000016#32
  | .bcRbit => 0x00000017#32
  | .bcRbits => 0x00000018#32
  | .bcRnum => 0x00000019#32
  | .cxWhdr => 0x00000020#32
  | .cxRhdr => 0x00000021#32
  | .cxCompress => 0x00000022#32
  | .cxDecompress => 0x00000023#32

/-- The value a host writes to CMD for a command: `zext_64(OP)` (30_encoding.md R90). -/
def cmdValue (i : Instr) : Word := (encode i).setWidth 64

/-- The value of a CMD write whose low `nbits` bits are those of `w` and whose other bits are 0. -/
def tableValue (nbits w : Nat) : Word := BitVec.ofNat 64 (w % 2 ^ nbits)

/-- The command the decoder reads from an instruction whose bits are `w`, numbered as spec/opcode_table.json numbers them. -/
def decodeTableWord (nbits w : Nat) : Option Instr :=
  match decode (tableValue nbits w) with
  | .ok i => some i
  | .error _ => none

end Sys2Proof
end

