-- ==== Sys2Proof/Machine/State.lean ====
section
/-! DEFINITION. The state of the block (10_state.md R20), of what it reaches outside itself (20_memory.md) and of the host and
platform that drive it (00_scope.md R8), as plain data; the ways the model stops; the state after reset. -/
namespace Sys2Proof.Machine

/-- `DIR`, the session direction (10_state.md R28): codes 0, 1, 2; the code 3 never occurs. -/
inductive Dir
  | none
  | write
  | read
deriving DecidableEq, Repr

/-- `ERR`, the sticky error (60_exceptions.md R221): codes 0, 1, 2; the code 3 is never stored. -/
inductive Err
  | clear
  | invalidParameter
  | ioFailure
deriving DecidableEq, Repr

/-- `FAULT.CAUSE` (60_exceptions.md R225): codes 0 to 11 in this order; the codes 12 to 255 are never recorded. -/
inductive Cause
  | none
  | illegalCommand
  | reservedBits
  | noSession
  | operandRange
  | symbolRange
  | symbolAbsent
  | symbolDuplicate
  | heapFull
  | badAddress
  | busyWrite
  | invariantViolation
deriving DecidableEq, Repr

/-- The frequency-heap unit (10_state.md R21 to R24). -/
structure Fhu where
  /-- `FREQ[0..CAP-1]`. -/
  freq : List Word
  /-- `SYM[0..CAP-1]`. -/
  sym : List Entry
  /-- `TABLE[0..N-1]`. -/
  table : List Entry
  /-- `NC`, the live-node count. -/
  nc : BitVec 32
deriving DecidableEq, Repr

/-- One port transaction with the host's answer (00_scope.md R9). -/
inductive PortEvent
  /-- The word was offered and answered (20_memory.md R63). -/
  | wrote (w : Word) (a : WriteAnswer)
  /-- A word was asked for and the request answered (20_memory.md R64). -/
  | asked (a : ReadAnswer)
deriving DecidableEq, Repr

/-- The host word port as the model sees it (00_scope.md R9, log entries 2 and 6): the answers the host will give, how
many free answers were drawn after the lists ran out, and the transactions made, newest first. -/
structure Port where
  writeAnswers : List WriteAnswer
  readAnswers : List ReadAnswer
  draws : Nat
  trace : List PortEvent
deriving DecidableEq, Repr

/-- The bit-channel session (10_state.md R28 to R32) and its port. -/
structure Channel where
  /-- `DIR`. -/
  dir : Dir
  /-- `ACC`. -/
  acc : Word
  /-- `CURSOR`. -/
  cursor : BitVec 7
  /-- `WORDS`. -/
  words : Word
  /-- `ERR`. -/
  err : Err
  port : Port
deriving DecidableEq, Repr

/-- DMEM (20_memory.md R60): the bytes written since power-on, by address, addresses strictly rising. An unlisted address
holds no value of the model's (`none`); the byte it reads as is a free value (log entry 3). -/
abbrev Memory := List Host.Cell

/-- An action of the host or the platform (00_scope.md R8, 30_encoding.md R90, 70_reset_and_hazards.md R261). A register
access names its width in bits and its address on the platform (20_memory.md R69). -/
inductive HostAction
  | regWrite (width addr : Nat) (v : Word)
  | regRead (width addr : Nat)
  | memWrite (addr : Nat) (v : Byte)
  | memRead (addr : Nat)
  | reset
deriving DecidableEq, Repr

/-- What a read of the host returned (00_scope.md R9). -/
inductive HostRead
  | reg (addr : Nat) (v : Word)
  | mem (addr : Nat) (v : Byte)
deriving DecidableEq, Repr

/-- The whole state. -/
structure State where
  /-- The implementation parameters, which PARAM shows (10_state.md R39). -/
  param : Params
  fhu : Fhu
  chan : Channel
  /-- `ARG0` to `ARG2` (10_state.md R35). -/
  arg0 : Word
  arg1 : Word
  arg2 : Word
  /-- `RES0` to `RES2` (10_state.md R36). -/
  res0 : Word
  res1 : Word
  res2 : Word
  /-- `FAULT.CAUSE` (10_state.md R33). -/
  faultCause : Cause
  /-- `FAULT.CMDWORD` (10_state.md R33). -/
  faultWord : CmdWord
  /-- `BUSY` (10_state.md R34). -/
  busy : Bool
  /-- The command in progress while `BUSY` is 1 (10_state.md R45, 60_exceptions.md R233). -/
  cmdWord : CmdWord
  dmem : Memory
  /-- What the host and the platform do next, first action first (log entry 1). -/
  pending : List HostAction
  /-- What the host's reads returned, newest first (log entry 6). -/
  hostReads : List HostRead
deriving DecidableEq, Repr

/-- How the model itself stops. The block's own FAULT record is no such stop: taking one is a next state. -/
inductive Fault
  /-- Raised by a host access to a DMEM address at or above `2^AW`, which does not exist (20_memory.md R60). Safe: the
  block takes no part in it. -/
  | dmemOutside
deriving DecidableEq, Repr

/-- What the model does not run. -/
inductive Refusal
  /-- Raised by an arm of `exec` whose instruction has no meaning yet. Safe. -/
  | notModelled (mnemonic : String)
  /-- Raised by a host register access that is not 64 bits wide at an 8-byte-aligned offset: outside the spec, and a
  model refuses it (10_state.md R41, 93_implementation_defined.md I9). Safe. -/
  | registerAccess
  /-- Raised by a host register access at an address outside `[REG_BASE, REG_BASE + 0x80)`: the block fixes nothing beyond
  its window (20_memory.md R69). Safe. -/
  | outsideWindow
  /-- Raised by a host DMEM access while a command is in progress: the model gives the host no such step
  (20_memory.md R71, 93_implementation_defined.md I11). Safe. -/
  | dmemDuringCommand
deriving DecidableEq, Repr

/-- The FHU that reset and HEAP.INIT leave (40_heap.md R110, 70_reset_and_hazards.md R260): every frequency 0, every
symbol INTERNAL, every table entry ABSENT, no live node. -/
def Fhu.empty (p : Params) : Fhu :=
  { freq := List.replicate p.cap 0#64
    sym := List.replicate p.cap (BitVec.allOnes 32)
    table := List.replicate p.n (BitVec.allOnes 32)
    nc := 0#32 }

/-- The state after reset under given parameters (10_state.md R43): the block as the rule says, DMEM with nothing listed,
no answer, no pending action and nothing observed. -/
def State.resetWith (p : Params) : State :=
  { param := p
    fhu := Fhu.empty p
    chan := { dir := .none, acc := 0#64, cursor := 0#7, words := 0#64, err := .clear
              port := { writeAnswers := [], readAnswers := [], draws := 0, trace := [] } }
    arg0 := 0#64, arg1 := 0#64, arg2 := 0#64
    res0 := 0#64, res1 := 0#64, res2 := 0#64
    faultCause := .none, faultWord := 0#32
    busy := false, cmdWord := 0#32
    dmem := []
    pending := []
    hostReads := [] }

/-- The machine right after reset. -/
def State.reset : State := State.resetWith Params.standard

end Sys2Proof.Machine
end

