-- ==== Sys2Proof/Machine/Operands.lean ====
section
/-! DEFINITION. How a command reads its operands and forms its results (30_encoding.md R82, R85): the widenings, the
sentinels, the range checks and the window parameters. -/
namespace Sys2Proof.Machine

/-- `zext_64` of an index or a count (00_scope.md R6). -/
def zext64 (k : Nat) : Word := BitVec.ofNat 64 k

/-- `sext_64` of an `s32` (00_scope.md R6). -/
def sext64 (v : Entry) : Word := v.signExtend 64

/-- `INTERNAL = -1`, the symbol of an internal node (10_state.md R22). -/
def internal : Entry := 0xFFFFFFFF#32

/-- `ABSENT = -1`, the table entry of a symbol not inserted (10_state.md R23). -/
def absent : Entry := 0xFFFFFFFF#32

/-- An index or symbol id as an `s32`. -/
def entryOf (k : Nat) : Entry := BitVec.ofNat 32 k

/-- `parent(k) = (k-1)/2` (10_state.md R25). -/
def parentIx (k : Nat) : Nat := (k - 1) / 2

/-- `left(k) = 2k+1` (10_state.md R25). -/
def leftIx (k : Nat) : Nat := 2 * k + 1

/-- `right(k) = 2k+2` (10_state.md R25). -/
def rightIx (k : Nat) : Nat := 2 * k + 2

/-- The operand passes SymCheck: `v < N`, unsigned (40_heap.md R100). -/
def symbolOk (p : Params) (v : Word) : Bool := decide (v.toNat < p.n)

/-- The operand is a node index: `v < CAP`, unsigned (30_encoding.md R85). -/
def nodeOk (p : Params) (v : Word) : Bool := decide (v.toNat < p.cap)

/-- The operand is a bit count of `writeBits` or `readBits`: `n <= 64` (41_bitchannel.md R154, R158). -/
def bitCountOk (v : Word) : Bool := decide (v.toNat ≤ 64)

/-- The operand is a numeric base: `1 <= base <= 64` (41_bitchannel.md R155, R159). -/
def baseOk (v : Word) : Bool := decide (1 ≤ v.toNat) && decide (v.toNat ≤ 64)

/-- The buffer check: `start + n <= 2^AW`, an exact sum (20_memory.md R62). -/
def bufferOk (p : Params) (start n : Word) : Bool := decide (start.toNat + n.toNat ≤ p.dmemSize)

/-- `ValidWB(wb)`: `10 <= wb <= 20` on all 64 bits, unsigned (42_codec.md R170). -/
def validWB (wb : Word) : Bool := decide (10 ≤ wb.toNat) && decide (wb.toNat ≤ 20)

/-- `window = 2^wb` (42_codec.md R170). -/
def windowOf (wb : Word) : Nat := 2 ^ wb.toNat

/-- `base = (wb - 4) / 2` (41_bitchannel.md R147, 42_codec.md R170). -/
def baseOf (wb : Word) : Nat := (wb.toNat - 4) / 2

end Sys2Proof.Machine
end

