-- ==== Sys2Proof/Machine/Flags.lean ====
section
/-! DEFINITION. The status flags and codes (10_state.md R38 to R40, R47; 60_exceptions.md R221, R222, R225). -/
namespace Sys2Proof.Machine

/-- The code of `DIR` (10_state.md R28). -/
def dirCode : Dir → BitVec 2
  | .none => 0
  | .write => 1
  | .read => 2

/-- The code of `ERR` (60_exceptions.md R221). -/
def errCode : Err → BitVec 2
  | .clear => 0
  | .invalidParameter => 1
  | .ioFailure => 2

/-- The code of `FAULT.CAUSE` (60_exceptions.md R225). -/
def causeCode : Cause → BitVec 8
  | .none => 0
  | .illegalCommand => 1
  | .reservedBits => 2
  | .noSession => 3
  | .operandRange => 4
  | .symbolRange => 5
  | .symbolAbsent => 6
  | .symbolDuplicate => 7
  | .heapFull => 8
  | .badAddress => 9
  | .busyWrite => 10
  | .invariantViolation => 11

/-- What a host write of `v` stores in `ERR`: `v[1:0]`, a 3 storing 2 (10_state.md R40). -/
def errOfWrite (v : Word) : Err :=
  if v.extractLsb' 0 2 = 0#2 then .clear
  else if v.extractLsb' 0 2 = 1#2 then .invalidParameter
  else .ioFailure

/-- `SetErr(code)`: the first error wins (60_exceptions.md R222). -/
def Channel.setErr (e : Err) (c : Channel) : Channel :=
  if c.err = .clear then { c with err := e } else c

/-- `STATUS.FAULTED` (10_state.md R38). -/
def State.faulted (s : State) : Bool := decide (s.faultCause ≠ .none)

/-- `STATUS` (10_state.md R38): BUSY [0], FAULTED [1], DIR [3:2], ERR [5:4], CURSOR [12:6], the rest 0. -/
def State.statusView (s : State) : Word :=
  (BitVec.ofBool s.busy).setWidth 64
    ||| (BitVec.ofBool s.faulted).setWidth 64 <<< 1
    ||| (dirCode s.chan.dir).setWidth 64 <<< 2
    ||| (errCode s.chan.err).setWidth 64 <<< 4
    ||| s.chan.cursor.setWidth 64 <<< 6

/-- `PARAM` (10_state.md R39): LOG2N [7:0], AW [15:8], DEBUG_VERIFY [16], MATCH_J0 [17], MATCH_TIE [18], the rest 0. -/
def paramView (p : Params) : Word :=
  (BitVec.ofNat 8 p.logN).setWidth 64
    ||| (BitVec.ofNat 8 p.aw).setWidth 64 <<< 8
    ||| (BitVec.ofBool p.debugVerify).setWidth 64 <<< 16
    ||| (BitVec.ofBool p.matchJ0).setWidth 64 <<< 17
    ||| (BitVec.ofBool p.matchTie).setWidth 64 <<< 18

/-- `FAULT` (10_state.md R40): CAUSE [7:0], CMDWORD [39:8], the rest 0. -/
def State.faultView (s : State) : Word :=
  (causeCode s.faultCause).setWidth 64 ||| s.faultWord.setWidth 64 <<< 8

end Sys2Proof.Machine
end

