-- ==== Sys2Proof/Machine/Ops.lean ====
section
/-! DEFINITION. The shared operations: DMEM (20_memory.md R61), the host word port (R63, R64), taking a fault and ending a
command (60_exceptions.md R226), the reset action (70_reset_and_hazards.md R260). -/
namespace Sys2Proof.Machine

/-- What a command's meaning answers. -/
abbrev Result := Host.Outcome State Fault Refusal

/-! DMEM. -/

/-- The canonical form of DMEM: addresses strictly rising. -/
abbrev Memory.wf (m : Memory) : Prop := m.Pairwise (fun x y => x.1 < y.1)

/-- The byte listed at an address: none where nothing was written since power-on. -/
def Memory.read : Memory → Nat → Option Byte
  | [], _ => none
  | (k, b) :: m, a => if a = k then some b else if a < k then none else Memory.read m a

/-- `MemRead(a, 1)` (20_memory.md R61): the byte last written, else what DMEM held at power-on, a free value
(93_implementation_defined.md I8, log entry 3). -/
def Memory.byte (m : Memory) (a : Nat) : Byte :=
  match m.read a with
  | some b => b
  | none => Config.dmemPowerOn a

/-- `MemWrite(a, 1, v)` (20_memory.md R61). -/
def Memory.write : Memory → Nat → Byte → Memory
  | [], a, v => [(a, v)]
  | (k, b) :: m, a, v =>
    if a < k then (a, v) :: (k, b) :: m
    else if a = k then (a, v) :: m
    else (k, b) :: Memory.write m a v

/-- The byte DMEM holds at an address, as the machine reads it. -/
def State.byteAt (s : State) (a : Nat) : Byte := s.dmem.byte a

/-! The host word port. -/

/-- The host's answer to the next write transaction: the next one listed, else a free value (log entry 2). -/
def Port.nextWrite (p : Port) : WriteAnswer :=
  match p.writeAnswers with
  | a :: _ => a
  | [] => Config.writeAnswer p.draws

/-- The port after a write transaction of `w`. -/
def Port.afterWrite (w : Word) (p : Port) : Port :=
  match p.writeAnswers with
  | a :: as => { p with writeAnswers := as, trace := .wrote w a :: p.trace }
  | [] => { p with draws := p.draws + 1, trace := .wrote w (Config.writeAnswer p.draws) :: p.trace }

/-- The host's answer to the next read transaction: the next one listed, else a free value (log entry 2). -/
def Port.nextRead (p : Port) : ReadAnswer :=
  match p.readAnswers with
  | a :: _ => a
  | [] => Config.readAnswer p.draws

/-- The port after a read transaction. -/
def Port.afterRead (p : Port) : Port :=
  match p.readAnswers with
  | a :: as => { p with readAnswers := as, trace := .asked a :: p.trace }
  | [] => { p with draws := p.draws + 1, trace := .asked (Config.readAnswer p.draws) :: p.trace }

/-- `PortWrite(w)` (20_memory.md R63): WORDS counts the transaction whatever the answer; `fail` sets IOFailure. -/
def portWrite (w : Word) (c : Channel) : Channel :=
  let c' := { c with words := c.words + 1#64, port := c.port.afterWrite w }
  match c.port.nextWrite with
  | .ok => c'
  | .fail => c'.setErr .ioFailure

/-- `PortRead()` (20_memory.md R64): WORDS counts the transaction whatever the answer; `fail` sets IOFailure and
gives 0. -/
def portRead (c : Channel) : Word × Channel :=
  let c' := { c with words := c.words + 1#64, port := c.port.afterRead }
  match c.port.nextRead with
  | .word w => (w, c')
  | .fail => (0#64, c'.setErr .ioFailure)

/-! Named updates of the state. -/

def State.setFhu (h : Fhu) (s : State) : State := { s with fhu := h }
def State.setChan (c : Channel) (s : State) : State := { s with chan := c }
def State.setDmem (m : Memory) (s : State) : State := { s with dmem := m }
def State.setRes0 (v : Word) (s : State) : State := { s with res0 := v }
def State.setRes1 (v : Word) (s : State) : State := { s with res1 := v }
def State.setRes2 (v : Word) (s : State) : State := { s with res2 := v }

/-- The command in progress ends: `BUSY <- 0` (10_state.md R34). -/
def State.finish (s : State) : State := { s with busy := false }

/-- A command is accepted: `BUSY <- 1`, and its word is the one in progress (10_state.md R34, R37, R45). -/
def State.begin (w : CmdWord) (s : State) : State := { s with busy := true, cmdWord := w }

/-- FAULT records a cause and a command word, if it is clear (60_exceptions.md R226, R232, R233). -/
def State.recordFault (cause : Cause) (w : CmdWord) (s : State) : State :=
  if s.faultCause = .none then { s with faultCause := cause, faultWord := w } else s

/-- `raise Fault(cause)` during command word `w` (60_exceptions.md R226): FAULT records it and the command ends. Nothing
else is saved or changed, and control goes nowhere; there is no return from a fault (R228). -/
def State.raiseFault (cause : Cause) (w : CmdWord) (s : State) : State := (s.recordFault cause w).finish

/-- A command raises a fault: a next state. -/
def raise (cause : Cause) (i : Instr) (s : State) : Result := .next (s.raiseFault cause (encode i))

/-- A command returns normally. -/
def complete (s : State) : Result := .next s.finish

/-- The reset action (70_reset_and_hazards.md R260): every piece of block state goes to its reset value. PARAM is a constant;
DMEM, the port and what the host does are outside the block and stay. -/
def State.resetAction (s : State) : State :=
  { s with
    fhu := Fhu.empty s.param
    chan := { s.chan with dir := .none, acc := 0#64, cursor := 0#7, words := 0#64, err := .clear }
    arg0 := 0#64, arg1 := 0#64, arg2 := 0#64
    res0 := 0#64, res1 := 0#64, res2 := 0#64
    faultCause := .none, faultWord := 0#32
    busy := false, cmdWord := 0#32 }

end Sys2Proof.Machine
end

