-- ==== Sys2Proof/Machine/BitChannel.lean ====
section
/-! DEFINITION. The bit channel: its primitives (41_bitchannel.md R140 to R146) and the BC.* commands (R150 to R159), with the
sticky-error short-circuit (R160). -/
namespace Sys2Proof.Machine

/-! The primitives. -/

/-- A full accumulator is written out before the next bit; on a failed write ACC and CURSOR stay
(41_bitchannel.md R140). -/
def drainFull (c : Channel) : Channel :=
  if c.cursor = 64#7 then
    let w := portWrite c.acc c
    if w.err ≠ .clear then w else { w with acc := 0#64, cursor := 0#7 }
  else c

/-- OR the bit in at CURSOR and advance (41_bitchannel.md R140). -/
def placeBit (b : Bool) (c : Channel) : Channel :=
  { c with acc := c.acc ||| (BitVec.ofBool b).setWidth 64 <<< c.cursor.toNat, cursor := c.cursor + 1#7 }

/-- `writeBit(b)` (41_bitchannel.md R140). -/
def writeBit (b : Bool) (c : Channel) : Channel :=
  if c.err ≠ .clear then c
  else
    let d := drainFull c
    if d.err ≠ .clear then d else placeBit b d

/-- `writeBits(v, n)` (41_bitchannel.md R141): bits 0 to `n - 1`, in that order. -/
def writeBits (v : Word) : Nat → Channel → Channel
  | 0, c => c
  | n + 1, c => writeBit (v.getLsbD n) (writeBits v n c)

/-- The loop of `writeNumber` (41_bitchannel.md R142): one chunk and its continuation bit each time. 64 rounds are enough
for every base from 1 to 64. -/
def writeNumberLoop (base : Nat) : Nat → Word → Channel → Channel
  | 0, _, c => c
  | fuel + 1, v, c =>
    let rest := v >>> base
    let c' := writeBit (decide (rest ≠ 0#64)) (writeBits v base c)
    if rest = 0#64 then c' else writeNumberLoop base fuel rest c'

/-- `writeNumber(v, base)` (41_bitchannel.md R142). -/
def writeNumber (v : Word) (base : Nat) (c : Channel) : Channel := writeNumberLoop base 64 v c

/-- `flush()` (41_bitchannel.md R143). -/
def flush (c : Channel) : Channel :=
  if c.err ≠ .clear then c
  else if 0 < c.cursor.toNat then
    let w := portWrite c.acc c
    if w.err ≠ .clear then w else { w with acc := 0#64, cursor := 0#7 }
  else c

/-- A fresh word is pulled in where no unread bit is left; on a failed read ACC and CURSOR stay
(41_bitchannel.md R144). -/
def fetchWord (c : Channel) : Channel :=
  if c.cursor = 0#7 then
    let q := portRead c
    if q.2.err ≠ .clear then q.2 else { q.2 with acc := q.1 }
  else c

/-- `CURSOR <- (CURSOR + 1) mod 64` (41_bitchannel.md R144). -/
def advanceRead (c : Channel) : Channel :=
  { c with cursor := BitVec.ofNat 7 ((c.cursor.toNat + 1) % 64) }

/-- `readBit()` (41_bitchannel.md R144): a short-circuited or failed read gives 0. -/
def readBit (c : Channel) : Bool × Channel :=
  if c.err ≠ .clear then (false, c)
  else
    let d := fetchWord c
    if d.err ≠ .clear then (false, d) else (d.acc.getLsbD d.cursor.toNat, advanceRead d)

/-- `readBits(n)` (41_bitchannel.md R145): bits 0 to `n - 1`, in that order. -/
def readBits : Nat → Channel → Word × Channel
  | 0, c => (0#64, c)
  | n + 1, c =>
    let q := readBits n c
    let t := readBit q.2
    (q.1 ||| (BitVec.ofBool t.1).setWidth 64 <<< n, t.2)

/-- A one bit of the chunk would land at or above bit 64 (41_bitchannel.md R146). -/
def chunkOverflows (chunk : Word) (sh : Nat) : Bool :=
  decide (chunk ≠ 0#64) && (decide (64 ≤ sh) || decide (2 ^ 64 ≤ chunk.toNat * 2 ^ sh))

/-- The loop of `readNumber` (41_bitchannel.md R146): one chunk and its continuation bit each time. 64 rounds are enough for
every base from 1 to 64, since a round starts only below shift 64. -/
def readNumberLoop (base : Nat) : Nat → Nat → Word → Channel → Word × Channel
  | 0, _, _, c => (0#64, c)
  | fuel + 1, sh, r, c =>
    if c.err ≠ .clear then (0#64, c)
    else
      let q := readBits base c
      if q.2.err ≠ .clear then (0#64, q.2)
      else if chunkOverflows q.1 sh = true then (0#64, q.2.setErr .invalidParameter)
      else
        let t := readBit q.2
        if t.2.err ≠ .clear then (0#64, t.2)
        else if t.1 = false then (r ||| q.1 <<< sh, t.2)
        else if 64 ≤ sh + base then (0#64, t.2.setErr .invalidParameter)
        else readNumberLoop base fuel (sh + base) (r ||| q.1 <<< sh) t.2

/-- `readNumber(base)` (41_bitchannel.md R146). -/
def readNumber (base : Nat) (c : Channel) : Word × Channel := readNumberLoop base 64 0 0#64 c

/-- A session is created (41_bitchannel.md R150, R151): its direction is set and the rest of it is cleared. -/
def Channel.openSession (d : Dir) (c : Channel) : Channel :=
  { c with dir := d, acc := 0#64, cursor := 0#7, words := 0#64, err := .clear }

/-- `DIR <- NONE` (41_bitchannel.md R152). -/
def Channel.close (c : Channel) : Channel := { c with dir := .none }

/-! The commands. -/

/-- BC.OPENW (41_bitchannel.md R150). -/
def execBcOpenw (s : State) : Result := complete (s.setChan (s.chan.openSession .write))

/-- BC.OPENR (41_bitchannel.md R151). -/
def execBcOpenr (s : State) : Result := complete (s.setChan (s.chan.openSession .read))

/-- BC.CLOSE (41_bitchannel.md R152). -/
def execBcClose (s : State) : Result := complete (s.setChan s.chan.close)

/-- BC.WBIT (41_bitchannel.md R153). -/
def execBcWbit (s : State) : Result :=
  if s.chan.dir ≠ .write then raise .noSession .bcWbit s
  else complete (s.setChan (writeBit (s.arg0.getLsbD 0) s.chan))

/-- BC.WBITS (41_bitchannel.md R154). -/
def execBcWbits (s : State) : Result :=
  if s.chan.dir ≠ .write then raise .noSession .bcWbits s
  else if bitCountOk s.arg1 = false then raise .operandRange .bcWbits s
  else complete (s.setChan (writeBits s.arg0 s.arg1.toNat s.chan))

/-- BC.WNUM (41_bitchannel.md R155). -/
def execBcWnum (s : State) : Result :=
  if s.chan.dir ≠ .write then raise .noSession .bcWnum s
  else if baseOk s.arg1 = false then raise .operandRange .bcWnum s
  else if s.chan.err ≠ .clear then complete s
  else complete (s.setChan (writeNumber s.arg0 s.arg1.toNat s.chan))

/-- BC.FLUSH (41_bitchannel.md R156). -/
def execBcFlush (s : State) : Result :=
  if s.chan.dir ≠ .write then raise .noSession .bcFlush s
  else complete (s.setChan (flush s.chan))

/-- BC.RBIT (41_bitchannel.md R157). -/
def execBcRbit (s : State) : Result :=
  if s.chan.dir ≠ .read then raise .noSession .bcRbit s
  else
    let q := readBit s.chan
    complete ((s.setChan q.2).setRes0 ((BitVec.ofBool q.1).setWidth 64))

/-- BC.RBITS (41_bitchannel.md R158). -/
def execBcRbits (s : State) : Result :=
  if s.chan.dir ≠ .read then raise .noSession .bcRbits s
  else if bitCountOk s.arg0 = false then raise .operandRange .bcRbits s
  else
    let q := readBits s.arg0.toNat s.chan
    complete ((s.setChan q.2).setRes0 (if q.2.err ≠ .clear then 0#64 else q.1))

/-- BC.RNUM (41_bitchannel.md R159). -/
def execBcRnum (s : State) : Result :=
  if s.chan.dir ≠ .read then raise .noSession .bcRnum s
  else if baseOk s.arg0 = false then raise .operandRange .bcRnum s
  else
    let q := readNumber s.arg0.toNat s.chan
    complete ((s.setChan q.2).setRes0 q.1)

end Sys2Proof.Machine
end

