-- ==== Sys2Proof/Machine/Codec.lean ====
section
/-! DEFINITION. The window codec: its operations (42_codec.md R170 to R177) and the CX.* commands (R180 to R183). -/
namespace Sys2Proof.Machine

/-! Headers. -/

/-- `writeHeader(total, wb)` (42_codec.md R171). -/
def writeHeader (total wb : Word) (c : Channel) : Channel :=
  let c' := portWrite total c
  if c'.err ≠ .clear then c' else portWrite wb c'

/-- `readHeader()` (42_codec.md R172): the two words, or none after a failed read. -/
def readHeader (c : Channel) : Option (Word × Word) × Channel :=
  let q := portRead c
  if q.2.err ≠ .clear then (none, q.2)
  else
    let t := portRead q.2
    if t.2.err ≠ .clear then (none, t.2) else (some (q.1, t.1), t.2)

/-! The match search. -/

/-- The length of the run at candidate `j` (42_codec.md R173): how many of the next `left` bytes from `k` on agree,
counted up to the first that differs. -/
def runLength (m : Memory) (src j i : Nat) : Nat → Nat → Nat
  | 0, k => k
  | left + 1, k =>
    if m.byte (src + j + k) = m.byte (src + i + k) then runLength m src j i left (k + 1) else k

/-- The first candidate (42_codec.md R173). -/
def firstCandidate (p : Params) (i window : Nat) : Nat :=
  if p.matchJ0 then i + 1 - window else i - window + 1

/-- A run of length `k` replaces a best run of length `best` (42_codec.md R173). -/
def betterRun (p : Params) (k best : Nat) : Bool :=
  if p.matchTie then decide (best ≤ k) && decide (0 < k) else decide (best < k)

/-- One candidate of the search: the distance and length kept so far, and those kept after it (42_codec.md R173). -/
def tryCandidate (p : Params) (m : Memory) (src n i : Nat) (acc : Nat × Nat) (j : Nat) : Nat × Nat :=
  let k := runLength m src j i (n - i) 0
  if betterRun p k acc.2 then (i - j, k) else acc

/-- `FindMatch(src, n, i, window)` (42_codec.md R173): the distance and length of the kept run, (0, 0) for none. -/
def findMatch (p : Params) (m : Memory) (src n i window : Nat) : Nat × Nat :=
  (List.range' (firstCandidate p i window) (i - firstCandidate p i window)).foldl
    (tryCandidate p m src n i) (0, 0)

/-! Tokens. -/

/-- `EmitLiteral(b)` (42_codec.md R174). -/
def emitLiteral (b : Byte) (c : Channel) : Channel :=
  let c' := if b.toNat < 0x80 then writeBit false c else writeBit false (writeBit true c)
  writeBits (b.setWidth 64) 7 c'

/-- `EmitMatch(pos, len)` (42_codec.md R174). -/
def emitMatch (base pos len : Nat) (c : Channel) : Channel :=
  writeNumber (zext64 len) base
    (writeNumber (zext64 pos) base (writeBit true (writeBit true c)))

/-- A decoded token (42_codec.md R175). -/
inductive Token
  | literal (v : Byte)
  | backRef (pos len : Word)
deriving DecidableEq, Repr

/-- The literal's 7 bits and its high bit (42_codec.md R175). -/
def decodeLiteral (high : Byte) (c : Channel) : Option Token × Channel :=
  let q := readBits 7 c
  if q.2.err ≠ .clear then (none, q.2) else (some (.literal (high ||| q.1.setWidth 8)), q.2)

/-- The match's two numbers (42_codec.md R175). -/
def decodeMatch (base : Nat) (c : Channel) : Option Token × Channel :=
  let q := readNumber base c
  let t := readNumber base q.2
  if t.2.err ≠ .clear then (none, t.2) else (some (.backRef q.1 t.1), t.2)

/-- `DecodeToken()` (42_codec.md R175): a token, or none for `stop`. -/
def decodeToken (base : Nat) (c : Channel) : Option Token × Channel :=
  let b0 := readBit c
  if b0.1 = false then decodeLiteral 0x00 b0.2
  else
    let b1 := readBit b0.2
    if b1.2.err ≠ .clear then (none, b1.2)
    else if b1.1 = false then decodeLiteral 0x80 b1.2
    else decodeMatch base b1.2

/-- A decoded match is valid at output cursor `i` (42_codec.md R176). -/
def validMatch (nh window i pos len : Nat) : Bool :=
  decide (0 < pos) && decide (pos < window) && decide (0 < len) && decide (pos ≤ i) && decide (len ≤ nh - i)

/-- The overlapping copy (42_codec.md R177, 20_memory.md R72): `len` bytes, one at a time, from output cursor `i`. -/
def copyMatch (dst pos : Nat) : Nat → Nat → Memory → Memory
  | 0, _, m => m
  | len + 1, i, m => copyMatch dst pos len (i + 1) (m.write (dst + i) (m.byte (dst + i - pos)))

/-! Compression and decompression. -/

/-- The token loop of CX.COMPRESS (42_codec.md R182) from input cursor `i`; every round advances it, so `n` rounds are
enough. -/
def compressLoop (p : Params) (m : Memory) (src n window base : Nat) : Nat → Nat → Channel → Nat × Channel
  | 0, i, c => (i, c)
  | fuel + 1, i, c =>
    if i < n ∧ c.err = .clear then
      let q := findMatch p m src n i window
      if 2 < q.2 then compressLoop p m src n window base fuel (i + q.2) (emitMatch base q.1 q.2 c)
      else compressLoop p m src n window base fuel (i + 1) (emitLiteral (m.byte (src + i)) c)
    else (i, c)

/-- The writer or reader starts afresh: `ACC <- 0; CURSOR <- 0` (42_codec.md R182, R183). -/
def Channel.fresh (c : Channel) : Channel := { c with acc := 0#64, cursor := 0#7 }

/-- CX.COMPRESS after its fault checks (42_codec.md R182): the bytes consumed and the session. -/
def compress (p : Params) (m : Memory) (src n wb : Word) (c : Channel) : Nat × Channel :=
  if c.err ≠ .clear then (0, c)
  else if validWB wb = false then (0, c.setErr .invalidParameter)
  else
    let q := compressLoop p m src.toNat n.toNat (windowOf wb) (baseOf wb) n.toNat 0
      (writeHeader n wb c.fresh)
    if q.2.err = .clear then (q.1, flush q.2) else q

/-- What CX.DECOMPRESS carries along: the output cursor, DMEM and the session. -/
structure Decoded where
  i : Nat
  mem : Memory
  chan : Channel
deriving DecidableEq, Repr

/-- The token loop of CX.DECOMPRESS (42_codec.md R183); every round advances the output cursor or ends the loop, so `nh`
rounds are enough. -/
def decompressLoop (dst nh window base : Nat) : Nat → Decoded → Decoded
  | 0, d => d
  | fuel + 1, d =>
    if d.i < nh ∧ d.chan.err = .clear then
      let t := decodeToken base d.chan
      match t.1 with
      | none => { d with chan := t.2 }
      | some (.literal v) =>
        decompressLoop dst nh window base fuel
          { i := d.i + 1, mem := d.mem.write (dst + d.i) v, chan := t.2 }
      | some (.backRef pos len) =>
        if validMatch nh window d.i pos.toNat len.toNat = true then
          decompressLoop dst nh window base fuel
            { i := d.i + len.toNat, mem := copyMatch dst pos.toNat len.toNat d.i d.mem, chan := t.2 }
        else { d with chan := t.2.setErr .invalidParameter }
    else d

/-- CX.DECOMPRESS after its fault checks (42_codec.md R183): the header if both its words were read, and the rest. -/
def decompress (m : Memory) (dst cap wb : Word) (c : Channel) : Option (Word × Word) × Decoded :=
  if c.err ≠ .clear then (none, { i := 0, mem := m, chan := c })
  else if validWB wb = false then (none, { i := 0, mem := m, chan := c.setErr .invalidParameter })
  else
    let h := readHeader c.fresh
    match h.1 with
    | none => (none, { i := 0, mem := m, chan := h.2 })
    | some (nh, hwb) =>
      if validWB hwb = false ∨ hwb ≠ wb ∨ cap.toNat < nh.toNat then
        (some (nh, hwb), { i := 0, mem := m, chan := h.2.setErr .invalidParameter })
      else
        (some (nh, hwb), decompressLoop dst.toNat nh.toNat (windowOf wb) (baseOf wb) nh.toNat
          { i := 0, mem := m, chan := h.2 })

/-- RES1 and RES2 show the header where both its words were read (42_codec.md R181, R183). -/
def State.setHeader (h : Option (Word × Word)) (s : State) : State :=
  match h with
  | none => s
  | some (nh, hwb) => (s.setRes1 nh).setRes2 hwb

/-! The commands. -/

/-- CX.WHDR (42_codec.md R180). -/
def execCxWhdr (s : State) : Result :=
  if s.chan.dir ≠ .write then raise .noSession .cxWhdr s
  else if s.chan.err ≠ .clear then complete s
  else if validWB s.arg1 = false then complete (s.setChan (s.chan.setErr .invalidParameter))
  else complete (s.setChan (writeHeader s.arg0 s.arg1 s.chan))

/-- CX.RHDR (42_codec.md R181): the words read are returned even when the second is no legal windowBits. -/
def execCxRhdr (s : State) : Result :=
  if s.chan.dir ≠ .read then raise .noSession .cxRhdr s
  else if s.chan.err ≠ .clear then complete s
  else
    let h := readHeader s.chan
    match h.1 with
    | none => complete (s.setChan h.2)
    | some (total, wb) =>
      complete (((s.setChan (if validWB wb = false then h.2.setErr .invalidParameter else h.2)).setRes0 total).setRes1 wb)

/-- CX.COMPRESS (42_codec.md R182). -/
def execCxCompress (s : State) : Result :=
  if s.chan.dir ≠ .write then raise .noSession .cxCompress s
  else if bufferOk s.param s.arg0 s.arg1 = false then raise .badAddress .cxCompress s
  else
    let q := compress s.param s.dmem s.arg0 s.arg1 s.arg2 s.chan
    complete (((s.setChan q.2.close).setRes0 q.2.words).setRes1 (zext64 q.1))

/-- CX.DECOMPRESS (42_codec.md R183). -/
def execCxDecompress (s : State) : Result :=
  if s.chan.dir ≠ .read then raise .noSession .cxDecompress s
  else if bufferOk s.param s.arg0 s.arg1 = false then raise .badAddress .cxDecompress s
  else
    let q := decompress s.dmem s.arg0 s.arg1 s.arg2 s.chan
    complete ((((s.setHeader q.1).setDmem q.2.mem).setChan q.2.chan.close).setRes0 (zext64 q.2.i))

end Sys2Proof.Machine
end

