-- ==== Sys2Proof/Machine/Heap.lean ====
section
/-! DEFINITION. The frequency-heap unit: its micro-operations (40_heap.md R100 to R107) and the HEAP.* commands (R110 to R116). -/
namespace Sys2Proof.Machine

/-! The arrays. An index outside an array reads as the reset value and is not written (log entry 11); no reachable state
has one. -/

/-- `FREQ[k]`. -/
def Fhu.freqAt (h : Fhu) (k : Nat) : Word := h.freq.getD k 0#64

/-- `SYM[k]`. -/
def Fhu.symAt (h : Fhu) (k : Nat) : Entry := h.sym.getD k internal

/-- `TABLE[s]`. -/
def Fhu.tableAt (h : Fhu) (s : Nat) : Entry := h.table.getD s absent

/-- `FREQ[k] <- v`. -/
def Fhu.setFreq (k : Nat) (v : Word) (h : Fhu) : Fhu := { h with freq := h.freq.set k v }

/-- `SYM[k] <- v`. -/
def Fhu.setSym (k : Nat) (v : Entry) (h : Fhu) : Fhu := { h with sym := h.sym.set k v }

/-- `TABLE[s] <- v`. -/
def Fhu.setTable (s : Nat) (v : Entry) (h : Fhu) : Fhu := { h with table := h.table.set s v }

/-- `NC <- NC + 1`. -/
def Fhu.incNc (h : Fhu) : Fhu := { h with nc := h.nc + 1#32 }

/-- The table update of `swap(a, b)` (40_heap.md R101): two leaves swap their entries, one leaf is retargeted, two internal
nodes leave the table alone. -/
def Fhu.swapTable (a b : Nat) (h : Fhu) : Fhu :=
  let sa := h.symAt a
  let sb := h.symAt b
  if sa ≠ internal ∧ sb ≠ internal then
    (h.setTable sa.toNat (h.tableAt sb.toNat)).setTable sb.toNat (h.tableAt sa.toNat)
  else if sa ≠ internal then h.setTable sa.toNat (entryOf b)
  else if sb ≠ internal then h.setTable sb.toNat (entryOf a)
  else h

/-- `swap(a, b)` (40_heap.md R101). -/
def Fhu.swap (a b : Nat) (h : Fhu) : Fhu :=
  { h.swapTable a b with
    freq := (h.freq.set a (h.freqAt b)).set b (h.freqAt a)
    sym := (h.sym.set a (h.symAt b)).set b (h.symAt a) }

/-- The loop of `siftUp` (40_heap.md R102), which moves to a smaller index each time. -/
def Fhu.siftUpLoop : Nat → Nat → Fhu → Nat × Fhu
  | 0, ix, h => (ix, h)
  | fuel + 1, ix, h =>
    if 0 < ix ∧ h.freqAt (parentIx ix) < h.freqAt ix then
      Fhu.siftUpLoop fuel (parentIx ix) (h.swap ix (parentIx ix))
    else (ix, h)

/-- The table entry of the leaf at an index points at it (40_heap.md R102, last step). -/
def Fhu.fixEntry (ix : Nat) (h : Fhu) : Fhu :=
  if h.symAt ix ≠ internal then h.setTable (h.symAt ix).toNat (entryOf ix) else h

/-- `siftUp(ix)` (40_heap.md R102): the final index and the heap. -/
def Fhu.siftUp (ix : Nat) (h : Fhu) : Nat × Fhu :=
  let q := Fhu.siftUpLoop ix ix h
  (q.1, q.2.fixEntry q.1)

/-- The child `siftDown` considers (40_heap.md R103): the right one when it is live and strictly larger. -/
def Fhu.largerChild (ix : Nat) (h : Fhu) : Nat :=
  if rightIx ix < h.nc.toNat ∧ h.freqAt (leftIx ix) < h.freqAt (rightIx ix) then rightIx ix else leftIx ix

/-- The loop of `siftDown` (40_heap.md R103), which moves to a larger live index each time. -/
def Fhu.siftDownLoop : Nat → Nat → Fhu → Nat × Fhu
  | 0, ix, h => (ix, h)
  | fuel + 1, ix, h =>
    if h.nc.toNat ≤ leftIx ix then (ix, h)
    else if h.freqAt ix < h.freqAt (h.largerChild ix) then
      Fhu.siftDownLoop fuel (h.largerChild ix) (h.swap ix (h.largerChild ix))
    else (ix, h)

/-- `siftDown(ix)` (40_heap.md R103): the final index and the heap. -/
def Fhu.siftDown (ix : Nat) (h : Fhu) : Nat × Fhu := Fhu.siftDownLoop h.nc.toNat ix h

/-- The loop of `pathIndex` (40_heap.md R104). -/
def pathLoop : Nat → Nat → Word → Nat → Word × Nat
  | 0, _, path, len => (path, len)
  | fuel + 1, ix, path, len =>
    if 0 < ix then
      pathLoop fuel (parentIx ix)
        (path <<< 1 ||| (if ix = rightIx (parentIx ix) then 1#64 else 0#64)) (len + 1)
    else (path, len)

/-- `pathIndex(ix)` (40_heap.md R104): the path and its length. -/
def pathIndex (ix : Nat) : Word × Nat := pathLoop ix ix 0#64 0

/-- `FreqAt(k)` (40_heap.md R106): a dead slot counts 0. -/
def Fhu.liveFreqAt (h : Fhu) (k : Nat) : Word := if k < h.nc.toNat then h.freqAt k else 0#64

/-- The ancestor recompute of HEAP.INC (40_heap.md R112): every ancestor becomes the sum of its array children. -/
def Fhu.recompute : Nat → Nat → Fhu → Fhu
  | 0, _, h => h
  | fuel + 1, a, h =>
    if 0 < a then
      Fhu.recompute fuel (parentIx a)
        (h.setFreq (parentIx a)
          (h.liveFreqAt (leftIx (parentIx a)) + h.liveFreqAt (rightIx (parentIx a))))
    else h

/-- `H` at one index and one of its children (40_heap.md R105). -/
def Fhu.childOk (h : Fhu) (ix c : Nat) : Bool :=
  decide (h.nc.toNat ≤ c) || decide (h.freqAt c ≤ h.freqAt ix)

/-- The check of one table entry in `verify()` (40_heap.md R105). -/
def Fhu.entryOk (h : Fhu) (s : Nat) : Bool :=
  h.tableAt s == absent
    || (decide (0 ≤ (h.tableAt s).toInt) && decide ((h.tableAt s).toInt < h.nc.toNat)
        && h.symAt (h.tableAt s).toNat == entryOf s)

/-- The check of one live node's entry in `verify()` (40_heap.md R105). -/
def Fhu.leafOk (h : Fhu) (ix : Nat) : Bool :=
  h.symAt ix == internal || h.tableAt (h.symAt ix).toNat == entryOf ix

/-- `verify()` (40_heap.md R105). -/
def Fhu.verify (p : Params) (h : Fhu) : Bool :=
  (List.range h.nc.toNat).all (fun ix => h.childOk ix (leftIx ix) && h.childOk ix (rightIx ix))
    && (List.range p.n).all h.entryOk
    && (List.range h.nc.toNat).all h.leafOk

/-- HEAP.INIT's effect (40_heap.md R110). -/
def Fhu.init (p : Params) : Fhu :=
  { freq := List.replicate p.cap 0#64
    sym := List.replicate p.cap internal
    table := List.replicate p.n absent
    nc := 0#32 }

/-- Place a new leaf of frequency 1 for a symbol at index `NC` (40_heap.md R111). -/
def Fhu.placeLeaf (s : Nat) (h : Fhu) : Fhu :=
  ((h.setFreq h.nc.toNat 1#64).setSym h.nc.toNat (entryOf s)).setTable s (entryOf h.nc.toNat)

/-- The number of nodes HEAP.ADD appends (40_heap.md R111). -/
def Fhu.need (h : Fhu) : Nat := if h.nc.toNat < 2 then 1 else 2

/-- The merge of HEAP.ADD (40_heap.md R109, R111): the sum of the nodes at the two highest live indices is appended as
an internal node, the two are sifted down, and the appended index is sifted up. -/
def Fhu.merge (h : Fhu) : Fhu :=
  let c := h.nc.toNat
  let h1 := ((h.setFreq c (h.freqAt (c - 2) + h.freqAt (c - 1))).setSym c internal).incNc
  let h2 := (h1.siftDown (c - 2)).2
  let h3 := (h2.siftDown (c - 1)).2
  (h3.siftUp c).2

/-- HEAP.ADD's effect on the heap (40_heap.md R111): the new leaf's final index and the heap. With fewer than two live
nodes the leaf is sifted before `NC` is incremented, else after. -/
def Fhu.add (s : Nat) (h : Fhu) : Nat × Fhu :=
  if h.nc.toNat < 2 then
    let q := (h.placeLeaf s).siftUp h.nc.toNat
    (q.1, q.2.incNc)
  else
    let m := h.merge
    (m.placeLeaf s).incNc.siftUp m.nc.toNat

/-- HEAP.INC's effect on the heap (40_heap.md R112), for the symbol whose node stands at `p`: the symbol's new index and
the heap. -/
def Fhu.bump (p : Nat) (h : Fhu) : Nat × Fhu :=
  let d := (h.setFreq p (h.freqAt p + 1#64)).siftDown p
  let u := d.2.siftUp d.1
  (u.1, u.2.recompute u.1 u.1)

/-- The DEBUG_VERIFY check after a command that mutates the heap (60_exceptions.md R232). -/
def debugCheck (i : Instr) (s : State) : State :=
  if s.param.debugVerify = true ∧ s.fhu.verify s.param = false then
    s.recordFault .invariantViolation (encode i)
  else s

/-! The commands. -/

/-- HEAP.INIT (40_heap.md R110). -/
def execHeapInit (s : State) : Result := complete (s.setFhu (Fhu.init s.param))

/-- HEAP.ADD (40_heap.md R111). -/
def execHeapAdd (s : State) : Result :=
  if symbolOk s.param s.arg0 = false then raise .symbolRange .heapAdd s
  else if s.fhu.tableAt s.arg0.toNat ≠ absent then raise .symbolDuplicate .heapAdd s
  else if s.param.cap < s.fhu.nc.toNat + s.fhu.need then raise .heapFull .heapAdd s
  else
    let q := s.fhu.add s.arg0.toNat
    complete (debugCheck .heapAdd ((s.setFhu q.2).setRes0 (zext64 q.1)))

/-- HEAP.INC (40_heap.md R112). -/
def execHeapInc (s : State) : Result :=
  if symbolOk s.param s.arg0 = false then raise .symbolRange .heapInc s
  else if s.fhu.tableAt s.arg0.toNat = absent then raise .symbolAbsent .heapInc s
  else
    let q := s.fhu.bump (s.fhu.tableAt s.arg0.toNat).toNat
    complete (debugCheck .heapInc ((s.setFhu q.2).setRes0 (zext64 q.1)))

/-- HEAP.PATH (40_heap.md R113). -/
def execHeapPath (s : State) : Result :=
  if symbolOk s.param s.arg0 = false then raise .symbolRange .heapPath s
  else if s.fhu.tableAt s.arg0.toNat = absent then
    complete (((s.setRes0 0xFFFFFFFFFFFFFFFF#64).setRes1 0#64).setRes2 0#64)
  else
    let ix := (s.fhu.tableAt s.arg0.toNat).toNat
    let q := pathIndex ix
    complete (((s.setRes0 (zext64 ix)).setRes1 q.1).setRes2 (zext64 q.2))

/-- HEAP.VERIFY (40_heap.md R114). -/
def execHeapVerify (s : State) : Result :=
  complete (s.setRes0 (if s.fhu.verify s.param then 1#64 else 0#64))

/-- HEAP.RDNODE (40_heap.md R115). -/
def execHeapRdnode (s : State) : Result :=
  if nodeOk s.param s.arg0 = false then raise .operandRange .heapRdnode s
  else
    let k := s.arg0.toNat
    complete (((s.setRes0 (s.fhu.freqAt k)).setRes1 (sext64 (s.fhu.symAt k))).setRes2
      (if k < s.fhu.nc.toNat then 1#64 else 0#64))

/-- HEAP.RDTAB (40_heap.md R116). -/
def execHeapRdtab (s : State) : Result :=
  if symbolOk s.param s.arg0 = false then raise .symbolRange .heapRdtab s
  else complete (s.setRes0 (sext64 (s.fhu.tableAt s.arg0.toNat)))

end Sys2Proof.Machine
end

