-- ==== Sys2Proof/Machine/Dispatch.lean ====
section
/-! DEFINITION. One arm per command: each calls its meaning. -/
namespace Sys2Proof.Machine

def exec (i : Instr) (s : State) : Host.Outcome State Fault Refusal :=
  match i with
  | .heapInit => Sys2Proof.Machine.execHeapInit s
  | .heapAdd => Sys2Proof.Machine.execHeapAdd s
  | .heapInc => Sys2Proof.Machine.execHeapInc s
  | .heapPath => Sys2Proof.Machine.execHeapPath s
  | .heapVerify => Sys2Proof.Machine.execHeapVerify s
  | .heapRdnode => Sys2Proof.Machine.execHeapRdnode s
  | .heapRdtab => Sys2Proof.Machine.execHeapRdtab s
  | .bcOpenw => Sys2Proof.Machine.execBcOpenw s
  | .bcOpenr => Sys2Proof.Machine.execBcOpenr s
  | .bcClose => Sys2Proof.Machine.execBcClose s
  | .bcWbit => Sys2Proof.Machine.execBcWbit s
  | .bcWbits => Sys2Proof.Machine.execBcWbits s
  | .bcWnum => Sys2Proof.Machine.execBcWnum s
  | .bcFlush => Sys2Proof.Machine.execBcFlush s
  | .bcRbit => Sys2Proof.Machine.execBcRbit s
  | .bcRbits => Sys2Proof.Machine.execBcRbits s
  | .bcRnum => Sys2Proof.Machine.execBcRnum s
  | .cxWhdr => Sys2Proof.Machine.execCxWhdr s
  | .cxRhdr => Sys2Proof.Machine.execCxRhdr s
  | .cxCompress => Sys2Proof.Machine.execCxCompress s
  | .cxDecompress => Sys2Proof.Machine.execCxDecompress s

end Sys2Proof.Machine
end

