-- ==== Sys2Proof/Machine/Window.lean ====
section
/-! DEFINITION. The register window (10_state.md R37 to R41, 20_memory.md R69), the issue of a command (60_exceptions.md R229), and
the actions of host and platform (00_scope.md R8, 30_encoding.md R90). -/
namespace Sys2Proof.Machine

/-! Running a command. -/

/-- The cause a decoding error raises (60_exceptions.md R225). -/
def decodeCause : DecodeError → Cause
  | .illegalCommand => .illegalCommand
  | .reservedBits => .reservedBits

/-- The command a CMD write of `v` names runs, or raises the fault of a word that names none (30_encoding.md R81, R84). -/
def runCommand (v : Word) (s : State) : Result :=
  match decode v with
  | .ok i => exec i s
  | .error e => .next (s.raiseFault (decodeCause e) (v.setWidth 32))

/-- A host write of `v` to CMD while BUSY is 0 (10_state.md R37, 60_exceptions.md R228, R229): refused with no state change
while FAULT is set, else the command runs. -/
def issue (v : Word) (s : State) : Result :=
  if s.faulted then .next s else runCommand v (s.begin (v.setWidth 32))

/-! The window. -/

/-- A host read of the register at an offset of the window (10_state.md R40). CMD and the unused offsets read 0. -/
def State.readReg (s : State) (offset : Nat) : Word :=
  match offset with
  | 0x00 => paramView s.param
  | 0x10 => s.arg0
  | 0x18 => s.arg1
  | 0x20 => s.arg2
  | 0x28 => s.res0
  | 0x30 => s.res1
  | 0x38 => s.res2
  | 0x40 => s.statusView
  | 0x48 => (errCode s.chan.err).setWidth 64
  | 0x50 => s.faultView
  | 0x58 => s.chan.acc
  | 0x60 => s.chan.words
  | 0x68 => s.fhu.nc.setWidth 64
  | _ => 0#64

/-- A host write to a register other than CMD, while BUSY is 0 (10_state.md R40). Writes to the read-only registers and
to the unused offsets are ignored. -/
def State.writeReg (offset : Nat) (v : Word) (s : State) : State :=
  match offset with
  | 0x10 => { s with arg0 := v }
  | 0x18 => { s with arg1 := v }
  | 0x20 => { s with arg2 := v }
  | 0x48 => { s with chan := { s.chan with err := errOfWrite v } }
  | _ => s

/-- A host register write while BUSY is 1 (60_exceptions.md R233): dropped, and recorded as BusyWrite. -/
def State.busyWrite (s : State) : State := s.recordFault .busyWrite s.cmdWord

/-- The offset in the register window of an address (20_memory.md R69): none outside the 0x80 bytes from `REG_BASE`. -/
def windowOffset (p : Params) (addr : Nat) : Option Nat :=
  if p.regBase ≤ addr ∧ addr < p.regBase + 0x80 then some (addr - p.regBase) else none

/-- The register a host access reaches, as an offset in the window, or why the model refuses the access: outside the window
(20_memory.md R69), or not 64 bits wide at an 8-byte-aligned offset (10_state.md R41). -/
def accessOffset (p : Params) (width addr : Nat) : Except Refusal Nat :=
  match windowOffset p addr with
  | none => .error .outsideWindow
  | some offset => if width ≠ 64 ∨ offset % 8 ≠ 0 then .error .registerAccess else .ok offset

/-- Why a host DMEM access stops the model, if it does. -/
def dmemStop (addr : Nat) (s : State) : Option Result :=
  if s.param.dmemSize ≤ addr then some (.fault .dmemOutside)
  else if s.busy then some (.refused .dmemDuringCommand)
  else none

/-! The actions. -/

/-- A host register write in the window. -/
def hostWrite (offset : Nat) (v : Word) (s : State) : Result :=
  if s.busy then .next s.busyWrite
  else if offset = 0x08 then issue v s
  else .next (s.writeReg offset v)

/-- One action of the host or the platform. -/
def act (a : HostAction) (s : State) : Result :=
  match a with
  | .regWrite width addr v =>
    match accessOffset s.param width addr with
    | .error r => .refused r
    | .ok offset => hostWrite offset v s
  | .regRead width addr =>
    match accessOffset s.param width addr with
    | .error r => .refused r
    | .ok offset => .next { s with hostReads := .reg addr (s.readReg offset) :: s.hostReads }
  | .memWrite addr v =>
    match dmemStop addr s with
    | some r => r
    | none => .next (s.setDmem (s.dmem.write addr v))
  | .memRead addr =>
    match dmemStop addr s with
    | some r => r
    | none => .next { s with hostReads := .mem addr (s.byteAt addr) :: s.hostReads }
  | .reset => .next s.resetAction

/-- No action is pending: an idle block holds all state (60_exceptions.md R238). A command still in progress, which no run of
the model leaves, runs to its end (60_exceptions.md R233, log entry 9). -/
def idle (s : State) : Result :=
  if s.busy then runCommand (s.cmdWord.setWidth 64) s else .next s

end Sys2Proof.Machine
end

