-- ==== Sys2Proof/Machine/Step.lean ====
section
/-! DEFINITION. One step: the next pending action of the host or the platform; a command written to CMD runs whole within the
step of its write (00_scope.md R8). -/
namespace Sys2Proof.Machine

/-- One step of the machine. -/
def step (s : State) : Host.Outcome State Fault Refusal :=
  match s.pending with
  | [] => idle s
  | a :: rest => act a { s with pending := rest }

/-- `s` with the host about to write the instruction to CMD (log entry 1). -/
def State.withFetchWord (s : State) (nbits w : Nat) : State :=
  { s with pending := .regWrite 64 (s.param.regAddr 0x08) (tableValue nbits w) :: s.pending }

end Sys2Proof.Machine
end

