-- ==== Sys2Proof/Safety.lean ====
section
/-! DEFINITION. The terms claims use: the invariants of the state (10_state.md R22 to R30, 40_heap.md R117), the bit streams a
session writes and reads (20_memory.md R65), the wire format of numbers and tokens (30_encoding.md R87 to R89) and the match
search's candidates and runs (42_codec.md R173). Nothing here is used by the machine. -/
namespace Sys2Proof.Machine

/-! The frequency heap. -/

/-- The live nodes, as `(FREQ, SYM)` from index 0 upward. -/
def Fhu.nodes (h : Fhu) : List (Word × Entry) :=
  (List.range h.nc.toNat).map (fun k => (h.freqAt k, h.symAt k))

/-- `H` (10_state.md R26): no live child is more frequent than its parent. -/
def Fhu.Ordered (h : Fhu) : Prop :=
  ∀ ix c, (c = leftIx ix ∨ c = rightIx ix) → c < h.nc.toNat → h.freqAt c ≤ h.freqAt ix

/-- `T` (10_state.md R26): the symbol table and the live leaves point at each other. -/
def Fhu.TableCorrect (p : Params) (h : Fhu) : Prop :=
  (∀ s, s < p.n → h.tableAt s ≠ absent →
    0 ≤ (h.tableAt s).toInt ∧ (h.tableAt s).toInt < h.nc.toNat
      ∧ h.symAt (h.tableAt s).toNat = entryOf s)
  ∧ ∀ ix, ix < h.nc.toNat → h.symAt ix ≠ internal →
      h.tableAt (h.symAt ix).toNat = entryOf ix

/-- Dead slots hold frequency 0 and INTERNAL (40_heap.md R117 (c)). -/
def Fhu.DeadClear (h : Fhu) : Prop :=
  ∀ k, h.nc.toNat ≤ k → h.freqAt k = 0#64 ∧ h.symAt k = internal

/-- The number of symbols inserted. -/
def Fhu.count (p : Params) (h : Fhu) : Nat :=
  ((List.range p.n).filter (fun s => h.tableAt s != absent)).length

/-- The live-node count after `k` adds: 0, 1, 2, 4, 6, ... (40_heap.md R117 (a)). -/
def nodesAfter (k : Nat) : Nat := if k < 2 then k else 2 * k - 2

/-- The structural invariant of the FHU: legal parameters, arrays of their lengths (10_state.md R21 to R23), `T`, clear
dead slots, and `NC` as the adds made it (10_state.md R24). -/
def FhuOk (p : Params) (h : Fhu) : Prop :=
  p.wf = true ∧ h.freq.length = p.cap ∧ h.sym.length = p.cap ∧ h.table.length = p.n
    ∧ h.TableCorrect p ∧ h.DeadClear ∧ h.nc.toNat = nodesAfter (h.count p)

/-- No frequency is near the wrap (40_heap.md R107): sums along any path of the array stay below `2^64`. -/
def Fhu.FarFromWrap (h : Fhu) : Prop := ∀ k, (h.freqAt k).toNat < 2 ^ 58

/-- The indices from the parent of `ix` up to the root, nearest first. -/
def ancestorsLoop : Nat → Nat → List Nat
  | 0, _ => []
  | fuel + 1, ix => if 0 < ix then parentIx ix :: ancestorsLoop fuel (parentIx ix) else []

/-- The ancestors of an index (40_heap.md R104, R112). -/
def ancestors (ix : Nat) : List Nat := ancestorsLoop ix ix

/-- A node of frequency `f` and symbol `y` that entered heap `h` at index `p` has risen to index `ix` of heap `h'`
(40_heap.md R102): it passed every ancestor of lower frequency up to the first that is not lower, each node it passed stands one place
down the path, and the symbols above it stay. -/
def Rises (h h' : Fhu) (p ix : Nat) (f : Word) (y : Entry) : Prop :=
  ix ∈ p :: ancestors p ∧ (ix = 0 ∨ f ≤ h.freqAt (parentIx ix))
    ∧ (∀ a, a ∈ ancestors p → a ∉ ancestors ix → h.freqAt a < f)
    ∧ h'.symAt ix = y
    ∧ (∀ a, a ∈ p :: ancestors p → a ∉ ix :: ancestors ix →
        h'.freqAt a = h.freqAt (parentIx a) ∧ h'.symAt a = h.symAt (parentIx a))
    ∧ ∀ a, a ∈ ancestors ix → h'.symAt a = h.symAt a

/-- The index reached from the root by the first `len` branches of a path, bit 0 first, a one going right
(40_heap.md R104). -/
def descend (path : Word) : Nat → Nat
  | 0 => 0
  | len + 1 => if path.getLsbD len then rightIx (descend path len) else leftIx (descend path len)

/-! The session. -/

/-- The session invariant: CURSOR and ACC as 10_state.md R28 to R30 bound them; a writer's bits at and above CURSOR are 0
(41_bitchannel.md R143). -/
def Channel.Ok (c : Channel) : Prop :=
  match c.dir with
  | .write => c.cursor.toNat ≤ 64 ∧ c.acc.toNat < 2 ^ c.cursor.toNat
  | .read => c.cursor.toNat < 64
  | .none => c.cursor.toNat ≤ 64

/-- Between commands: BUSY is 0 (10_state.md R34), the session is well formed, and FAULT.CMDWORD is 0 while no fault is
recorded (10_state.md R33). -/
def State.SessionOk (s : State) : Prop :=
  s.busy = false ∧ s.chan.Ok ∧ (s.faultCause = .none → s.faultWord = 0#32)

/-- DMEM is in its canonical form and lists only addresses below `2^AW` (20_memory.md R60). -/
def State.MemOk (s : State) : Prop := s.dmem.wf ∧ ∀ c ∈ s.dmem, c.1 < s.param.dmemSize

/-! Bit streams. -/

/-- The low `n` bits of a value, bit 0 first (20_memory.md R65). -/
def lowBits (v : Word) (n : Nat) : List Bool := (List.range n).map v.getLsbD

/-- The 64 bits of a port word in stream order (20_memory.md R65). -/
def wordBits (w : Word) : List Bool := lowBits w 64

/-- The word a write event delivered, if the host accepted it. -/
def PortEvent.accepted : PortEvent → Option Word
  | .wrote w .ok => some w
  | .wrote _ .fail => none
  | .asked _ => none

/-- The words the host accepted, in transaction order (a trace is newest first). -/
def acceptedWords (trace : List PortEvent) : List Word := trace.reverse.filterMap PortEvent.accepted

/-- The bits written so far: those of the accepted words and those pending in ACC. -/
def Channel.written (c : Channel) : List Bool :=
  (acceptedWords c.port.trace).flatMap wordBits ++ lowBits c.acc c.cursor.toNat

/-- The words of the listed read answers up to the first failure. -/
def listedWords : List ReadAnswer → List Word
  | .word w :: as => w :: listedWords as
  | _ => []

/-- The bits still to be read: those of ACC from CURSOR on, unless CURSOR is 0, and those of the listed words. -/
def Channel.unread (c : Channel) : List Bool :=
  (if c.cursor = 0#7 then [] else (wordBits c.acc).drop c.cursor.toNat)
    ++ (listedWords c.port.readAnswers).flatMap wordBits

/-- The value of a bit list, bit 0 first. -/
def bitsValue : List Bool → Nat
  | [] => 0
  | b :: bs => b.toNat + 2 * bitsValue bs

/-! The wire format. -/

/-- The rounds of `VL(v, base)`. -/
def vlRounds (base : Nat) : Nat → Word → List Bool
  | 0, _ => []
  | fuel + 1, v =>
    lowBits v base ++ decide (v >>> base ≠ 0#64) ::
      (if v >>> base = 0#64 then [] else vlRounds base fuel (v >>> base))

/-- `VL(v, base)` (30_encoding.md R89): each chunk and its continuation bit. -/
def vlCode (base : Nat) (v : Word) : List Bool := vlRounds base 64 v

/-- Chunks of a number, each followed by continuation 1 (41_bitchannel.md R146). -/
def contChunks (base : Nat) (as : List Word) : List Bool := as.flatMap (fun a => lowBits a base ++ [true])

/-- The value of a number's chunks, the first the lowest (41_bitchannel.md R146). -/
def chunksValue (base : Nat) : List Word → Nat
  | [] => 0
  | a :: as => a.toNat + 2 ^ base * chunksValue base as

/-- Each chunk has `base` bits, and no one bit of them lands at or above bit 64. -/
def ChunksFit (base : Nat) (as : List Word) : Prop := (∀ a ∈ as, a.toNat < 2 ^ base) ∧ chunksValue base as < 2 ^ 64

/-- After any number of fitting chunks with continuation 1 the stream has a chunk with a one bit at or above bit 64
(41_bitchannel.md R146); `rest` follows that chunk. -/
def OverflowingChunk (base : Nat) (bits rest : List Bool) : Prop :=
  ∃ (as : List Word) (b : Word), ChunksFit base as ∧ as.length * base < 64 ∧ b.toNat < 2 ^ base
    ∧ 2 ^ 64 ≤ b.toNat * 2 ^ (as.length * base) ∧ bits = contChunks base as ++ lowBits b base ++ rest

/-- The stream has fitting chunks up to the one that brings the shift to 64 or more, and that one has continuation 1 too
(41_bitchannel.md R146); `rest` follows that bit. -/
def ExcessContinuation (base : Nat) (bits rest : List Bool) : Prop :=
  ∃ as : List Word, ChunksFit base as ∧ 0 < as.length ∧ (as.length - 1) * base < 64 ∧ 64 ≤ as.length * base
    ∧ bits = contChunks base as ++ rest

/-- The stream ends within a number (41_bitchannel.md R146): after any number of fitting chunks with continuation 1, below shift 64, in
a chunk, or after a fitting chunk and before its continuation bit. -/
def CutNumber (base : Nat) (bits : List Bool) : Prop :=
  ∃ (as : List Word) (part : List Bool), ChunksFit base as ∧ as.length * base < 64 ∧ bits = contChunks base as ++ part
    ∧ (part.length < base ∨ ∃ b : Word, ChunksFit base (as ++ [b]) ∧ part = lowBits b base)

/-- The bits of a token (30_encoding.md R88, 42_codec.md R174). -/
def Token.code (base : Nat) : Token → List Bool
  | .literal b =>
    (if b.toNat < 0x80 then [false] else [true, false]) ++ lowBits (b.setWidth 64) 7
  | .backRef pos len => [true, true] ++ vlCode base pos ++ vlCode base len

/-- The tokens spell the bytes `get i`, ..., `get (n - 1)` of a buffer, every match within the bounds of
42_codec.md R184 (a) and repeating the bytes `pos` before it. -/
def Spells (get : Nat → Byte) (n window : Nat) : Nat → List Token → Prop
  | i, [] => i = n
  | i, .literal b :: ts => i < n ∧ b = get i ∧ Spells get n window (i + 1) ts
  | i, .backRef pos len :: ts =>
    3 ≤ len.toNat ∧ len.toNat ≤ n - i ∧ 1 ≤ pos.toNat ∧ pos.toNat < window ∧ pos.toNat ≤ i
      ∧ (∀ k, k < len.toNat → get (i + k) = get (i + k - pos.toNat))
      ∧ Spells get n window (i + len.toNat) ts

/-- The tokens CX.COMPRESS chooses from input cursor `i` on (42_codec.md R182): the match FindMatch gives where its length is
above 2, else the literal. -/
def Chosen (p : Params) (m : Memory) (src n window : Nat) : Nat → List Token → Prop
  | i, [] => i = n
  | i, t :: ts =>
    let q := findMatch p m src n i window
    i < n ∧ if 2 < q.2 then t = .backRef (BitVec.ofNat 64 q.1) (BitVec.ofNat 64 q.2) ∧ Chosen p m src n window (i + q.2) ts
            else t = .literal (m.byte (src + i)) ∧ Chosen p m src n window (i + 1) ts

/-- A decoded match is valid at output cursor `i` of a declared count `nh` (42_codec.md R176). -/
def ValidMatch (nh window i pos len : Nat) : Prop := 0 < pos ∧ pos < window ∧ 0 < len ∧ pos ≤ i ∧ len ≤ nh - i

/-- Every token stands below the declared count and every match is valid where it stands (42_codec.md R176, R183). -/
def ValidTokens (nh window : Nat) : Nat → List Token → Prop
  | _, [] => True
  | i, .literal _ :: ts => i < nh ∧ ValidTokens nh window (i + 1) ts
  | i, .backRef pos len :: ts =>
    i < nh ∧ ValidMatch nh window i pos.toNat len.toNat ∧ ValidTokens nh window (i + len.toNat) ts

/-- The output cursor after tokens decoded from cursor `i` on (42_codec.md R183). -/
def cursorAfter : Nat → List Token → Nat
  | i, [] => i
  | i, .literal _ :: ts => cursorAfter (i + 1) ts
  | i, .backRef _ len :: ts => cursorAfter (i + len.toNat) ts

/-- DMEM after tokens decoded from output cursor `i` on (42_codec.md R177, R183). -/
def memAfter (dst : Nat) : Nat → List Token → Memory → Memory
  | _, [], m => m
  | i, .literal b :: ts, m => memAfter dst (i + 1) ts (m.write (dst + i) b)
  | i, .backRef pos len :: ts, m => memAfter dst (i + len.toNat) ts (copyMatch dst pos.toNat len.toNat i m)

/-- How decoding ends at output cursor `i` with the bits `rest` unread, by the ERR it leaves: `clear` at the declared count;
InvalidParameter at an invalid match (42_codec.md R176) or at a number out of range in a match (41_bitchannel.md R146); IOFailure
where the words run out within a token and the host then fails the read (42_codec.md R175). -/
def StreamEnds (base nh window i : Nat) (answers : List ReadAnswer) (rest : List Bool) : Err → Prop
  | .clear => i = nh
  | .invalidParameter => i < nh ∧ ∃ rest',
      (∃ pos len, rest = Token.code base (.backRef pos len) ++ rest' ∧ ¬ ValidMatch nh window i pos.toNat len.toNat)
      ∨ ∃ bits, (OverflowingChunk base bits rest' ∨ ExcessContinuation base bits rest')
          ∧ (rest = [true, true] ++ bits ∨ ∃ pos, rest = [true, true] ++ vlCode base pos ++ bits)
  | .ioFailure => i < nh ∧ (∃ t tail, tail ≠ [] ∧ Token.code base t = rest ++ tail)
      ∧ ∃ (ws : List Word) (more : List ReadAnswer), answers = ws.map .word ++ .fail :: more

/-! The match search. -/

/-- `j` is a candidate start at input cursor `i` (42_codec.md R173): `j < i`, the distance is below the window, and `j = 0`
only with MATCH_J0. -/
def Candidate (p : Params) (i window j : Nat) : Prop :=
  j < i ∧ i < j + window ∧ (p.matchJ0 = true ∨ 0 < j)

/-- `k` is the length of the run at candidate `j` (42_codec.md R173): `k` bytes agree, and the next one differs or lies past
the end. -/
def IsRun (m : Memory) (src n i j k : Nat) : Prop :=
  k ≤ n - i ∧ (∀ x, x < k → m.byte (src + j + x) = m.byte (src + i + x))
    ∧ (k = n - i ∨ m.byte (src + j + k) ≠ m.byte (src + i + k))

end Sys2Proof.Machine
end

