-- ==== Sys2Proof/Certificates/Slice0/Obligations.lean ====
section
/-! DEFINITION. The statements for the provers. Each docstring says which rule of spec/ it formalises; where a clause is the
model's own choice it names the log entry. The fields `cmdWord`, `pending` and `hostReads` of a next state, which no rule
names, are the model's (log entries 1, 5 and 6). -/
open Sys2Proof Sys2Proof.Machine

/-! ## Decoding and issuing a command -/

/-- A value written to CMD names a command exactly when it is that command's word zero-extended to 64 bits
(30_encoding.md R80, R82, R90). -/
def Obligations.DecodeAcceptsExactlyTheCommandValues : Prop :=
  ∀ (v : Word) (i : Instr), decode v = .ok i ↔ v = cmdValue i

/-- A value names no command because its OP is 0x00, 0x08-0x0F, 0x1A-0x1F or 0x24-0xFF, whatever its other bits are; or because
its OP is any other value and a bit of `v[63:8]` is set (30_encoding.md R81, R84). -/
def Obligations.DecodeErrorsByOpcodeAndReservedBits : Prop :=
  ∀ (v : Word) (op : Nat), op = v.toNat % 256 →
    (decode v = .error .illegalCommand ↔
      op = 0 ∨ (0x08 ≤ op ∧ op ≤ 0x0F) ∨ (0x1A ≤ op ∧ op ≤ 0x1F) ∨ 0x24 ≤ op)
    ∧ (decode v = .error .reservedBits ↔
      ¬ (op = 0 ∨ (0x08 ≤ op ∧ op ≤ 0x0F) ∨ (0x1A ≤ op ∧ op ≤ 0x1F) ∨ 0x24 ≤ op) ∧ 256 ≤ v.toNat)

/-- Words written out from the table of 30_encoding.md R82, at least one of each unit, decode to their commands, and the
words of 95_test_vectors.md section 2.5 decode to none. -/
def Obligations.WrittenOutWordsDecode : Prop :=
  decodeTableWord 32 0x00000002 = some .heapAdd ∧ decodeTableWord 32 0x00000007 = some .heapRdtab
    ∧ decodeTableWord 32 0x00000010 = some .bcOpenw ∧ decodeTableWord 32 0x00000019 = some .bcRnum
    ∧ decodeTableWord 32 0x00000022 = some .cxCompress ∧ decodeTableWord 32 0x00000023 = some .cxDecompress
    ∧ decode 0x0000000000000000#64 = .error .illegalCommand
    ∧ decode 0x0000000000000102#64 = .error .reservedBits
    ∧ decode 0x0000000100000002#64 = .error .reservedBits

/-- A step whose next host action writes a command's value to CMD runs that command, with BUSY 1 and the word in progress,
while BUSY was 0 and no fault is recorded (10_state.md R37, 30_encoding.md R80; the pending actions are log entry 1). -/
def Obligations.StepRunsTheCommandWritten : Prop :=
  ∀ (s : State) (rest : List HostAction) (v : Word) (i : Instr),
    s.pending = .regWrite 64 (s.param.regBase + 0x08) v :: rest → s.busy = false → s.faultCause = .none → decode v = .ok i →
    step s = exec i { s with pending := rest, busy := true, cmdWord := v.setWidth 32 }

/-- A CMD write whose OP is not assigned faults with IllegalCommand, and one whose OP is assigned and whose bits [63:8] are not 0
faults with ReservedBits; FAULT records `v[31:0]` and the block is otherwise unchanged (30_encoding.md R81, R84). -/
def Obligations.UnassignedOrReservedWordFaults : Prop :=
  ∀ (s : State) (rest : List HostAction) (v : Word) (op : Nat),
    s.pending = .regWrite 64 (s.param.regBase + 0x08) v :: rest → s.busy = false → s.faultCause = .none → op = v.toNat % 256 →
    (op = 0 ∨ (0x08 ≤ op ∧ op ≤ 0x0F) ∨ (0x1A ≤ op ∧ op ≤ 0x1F) ∨ 0x24 ≤ op →
      ∃ c, step s = .next { s with pending := rest, cmdWord := c
                                   faultCause := .illegalCommand, faultWord := v.setWidth 32 })
    ∧ (¬ (op = 0 ∨ (0x08 ≤ op ∧ op ≤ 0x0F) ∨ (0x1A ≤ op ∧ op ≤ 0x1F) ∨ 0x24 ≤ op) → 256 ≤ v.toNat →
      ∃ c, step s = .next { s with pending := rest, cmdWord := c
                                   faultCause := .reservedBits, faultWord := v.setWidth 32 })

/-- The faulted state (60_exceptions.md R228): every CMD write is refused with no state change; register reads, writes of ARG0
to ARG2 and ERR, and DMEM accesses work as usual; a reset leaves it. -/
def Obligations.FaultedStateRefusesCommands : Prop :=
  ∀ (s : State) (rest : List HostAction), s.faultCause ≠ .none → s.busy = false →
    (∀ v, s.pending = .regWrite 64 (s.param.regBase + 0x08) v :: rest → step s = .next { s with pending := rest })
    ∧ (∀ off, off % 8 = 0 → off < 0x80 → s.pending = .regRead 64 (s.param.regBase + off) :: rest →
        step s = .next
          { s with pending := rest, hostReads := .reg (s.param.regBase + off) (s.readReg off) :: s.hostReads })
    ∧ (∀ v, s.pending = .regWrite 64 (s.param.regBase + 0x10) v :: rest → step s = .next { s with pending := rest, arg0 := v })
    ∧ (∀ v, s.pending = .regWrite 64 (s.param.regBase + 0x18) v :: rest → step s = .next { s with pending := rest, arg1 := v })
    ∧ (∀ v, s.pending = .regWrite 64 (s.param.regBase + 0x20) v :: rest → step s = .next { s with pending := rest, arg2 := v })
    ∧ (∀ v, s.pending = .regWrite 64 (s.param.regBase + 0x48) v :: rest →
        step s = .next { s with pending := rest, chan := { s.chan with err := errOfWrite v } })
    ∧ (∀ a b, a < 2 ^ s.param.aw → s.pending = .memWrite a b :: rest →
        step s = .next { s with pending := rest, dmem := s.dmem.write a b })
    ∧ (∀ a, a < 2 ^ s.param.aw → s.pending = .memRead a :: rest →
        step s = .next { s with pending := rest, hostReads := .mem a (s.byteAt a) :: s.hostReads })
    ∧ (s.pending = .reset :: rest → ∃ t, step s = .next t ∧ t.faultCause = .none ∧ t.faultWord = 0#32)

/-- Only a reset clears FAULT, and a recorded fault is never overwritten: any other step from a faulted state keeps the cause
and the command word (10_state.md R33, 60_exceptions.md R226, R228). -/
def Obligations.FaultStaysUntilReset : Prop :=
  ∀ s t : State, s.faultCause ≠ .none → step s = .next t → (∀ rest, s.pending ≠ .reset :: rest) →
    t.faultCause = s.faultCause ∧ t.faultWord = s.faultWord

/-- The reset action (70_reset_and_hazards.md R260): every piece of block state goes to its reset value; PARAM and DMEM stay and
no port transaction is made. What the model's own `cmdWord` becomes is left open (log entry 5). -/
def Obligations.ResetActionSetsEveryPiece : Prop :=
  ∀ (s : State) (rest : List HostAction), s.pending = .reset :: rest →
    ∃ c, step s = .next
      { param := s.param
        fhu := { freq := List.replicate (2 * 2 ^ s.param.logN) 0#64
                 sym := List.replicate (2 * 2 ^ s.param.logN) 0xFFFFFFFF#32
                 table := List.replicate (2 ^ s.param.logN) 0xFFFFFFFF#32
                 nc := 0#32 }
        chan := { dir := .none, acc := 0#64, cursor := 0#7, words := 0#64, err := .clear, port := s.chan.port }
        arg0 := 0#64, arg1 := 0#64, arg2 := 0#64
        res0 := 0#64, res1 := 0#64, res2 := 0#64
        faultCause := .none, faultWord := 0#32
        busy := false, cmdWord := c
        dmem := s.dmem, pending := rest, hostReads := s.hostReads }

/-- The state after reset (10_state.md R43), for every choice of the parameters, and that the model's reset state is it for the
spec's defaults (00_scope.md R5), some address width and some window base. -/
def Obligations.StateAfterReset : Prop :=
  (∀ p : Params,
    (State.resetWith p).fhu = Fhu.init p
    ∧ (∀ k, (State.resetWith p).fhu.freqAt k = 0#64 ∧ (State.resetWith p).fhu.symAt k = 0xFFFFFFFF#32)
    ∧ (∀ j, (State.resetWith p).fhu.tableAt j = 0xFFFFFFFF#32) ∧ (State.resetWith p).fhu.nc = 0#32
    ∧ (State.resetWith p).chan.dir = .none ∧ (State.resetWith p).chan.acc = 0#64
    ∧ (State.resetWith p).chan.cursor = 0#7 ∧ (State.resetWith p).chan.words = 0#64
    ∧ (State.resetWith p).chan.err = .clear
    ∧ (State.resetWith p).arg0 = 0#64 ∧ (State.resetWith p).arg1 = 0#64 ∧ (State.resetWith p).arg2 = 0#64
    ∧ (State.resetWith p).res0 = 0#64 ∧ (State.resetWith p).res1 = 0#64 ∧ (State.resetWith p).res2 = 0#64
    ∧ (State.resetWith p).readReg 0x50 = 0#64 ∧ (State.resetWith p).busy = false
    ∧ (State.resetWith p).readReg 0x00 = paramView p)
  ∧ ∃ aw base, State.reset = State.resetWith
      { logN := 5, aw := aw, debugVerify := true, matchJ0 := false, matchTie := false, regBase := base }

/-! ## The register window -/

/-- The register map (10_state.md R40) at the window base (20_memory.md R69): what a read of each offset returns, that it changes
nothing else, and what a write to each offset but CMD's does while BUSY is 0. That an access outside the window is refused is the
model's choice (log entry 10). -/
def Obligations.RegisterMap : Prop :=
  ∀ s : State,
    (s.readReg 0x00 = paramView s.param ∧ s.readReg 0x08 = 0#64
      ∧ s.readReg 0x10 = s.arg0 ∧ s.readReg 0x18 = s.arg1 ∧ s.readReg 0x20 = s.arg2
      ∧ s.readReg 0x28 = s.res0 ∧ s.readReg 0x30 = s.res1 ∧ s.readReg 0x38 = s.res2
      ∧ s.readReg 0x40 = s.statusView ∧ s.readReg 0x48 = (errCode s.chan.err).setWidth 64
      ∧ s.readReg 0x50 = s.faultView ∧ s.readReg 0x58 = s.chan.acc ∧ s.readReg 0x60 = s.chan.words
      ∧ s.readReg 0x68 = s.fhu.nc.setWidth 64 ∧ s.readReg 0x70 = 0#64 ∧ s.readReg 0x78 = 0#64)
    ∧ (∀ off, off % 8 = 0 → off < 0x80 →
        act (.regRead 64 (s.param.regBase + off)) s = .next
          { s with hostReads := .reg (s.param.regBase + off) (s.readReg off) :: s.hostReads })
    ∧ (∀ width addr v, addr < s.param.regBase ∨ s.param.regBase + 0x80 ≤ addr →
        act (.regWrite width addr v) s = .refused .outsideWindow ∧ act (.regRead width addr) s = .refused .outsideWindow)
    ∧ (∀ off v, off % 8 = 0 → off < 0x80 → off ≠ 0x08 → s.busy = false →
        act (.regWrite 64 (s.param.regBase + off) v) s = .next
          (if off = 0x10 then { s with arg0 := v }
           else if off = 0x18 then { s with arg1 := v }
           else if off = 0x20 then { s with arg2 := v }
           else if off = 0x48 then
             { s with chan := { s.chan with
                 err := if v.toNat % 4 = 0 then .clear else if v.toNat % 4 = 1 then .invalidParameter
                        else .ioFailure } }
           else s))

/-- The fields of STATUS, FAULT and PARAM (10_state.md R38, R39, R40): each in its bits, and the reserved bits 0; and the codes of DIR
(10_state.md R28), ERR (60_exceptions.md R221) and FAULT.CAUSE (R225) that they show. -/
def Obligations.StatusFaultAndParamFields : Prop :=
  (dirCode .none = 0#2 ∧ dirCode .write = 1#2 ∧ dirCode .read = 2#2)
  ∧ (errCode .clear = 0#2 ∧ errCode .invalidParameter = 1#2 ∧ errCode .ioFailure = 2#2)
  ∧ (causeCode .none = 0#8 ∧ causeCode .illegalCommand = 1#8 ∧ causeCode .reservedBits = 2#8
      ∧ causeCode .noSession = 3#8 ∧ causeCode .operandRange = 4#8 ∧ causeCode .symbolRange = 5#8
      ∧ causeCode .symbolAbsent = 6#8 ∧ causeCode .symbolDuplicate = 7#8 ∧ causeCode .heapFull = 8#8
      ∧ causeCode .badAddress = 9#8 ∧ causeCode .busyWrite = 10#8 ∧ causeCode .invariantViolation = 11#8)
  ∧ ∀ s : State,
    (s.statusView.getLsbD 0 = s.busy ∧ s.statusView.getLsbD 1 = decide (s.faultCause ≠ .none)
      ∧ s.statusView.extractLsb' 2 2 = dirCode s.chan.dir ∧ s.statusView.extractLsb' 4 2 = errCode s.chan.err
      ∧ s.statusView.extractLsb' 6 7 = s.chan.cursor ∧ s.statusView.toNat < 2 ^ 13)
    ∧ (s.faultView.extractLsb' 0 8 = causeCode s.faultCause ∧ s.faultView.extractLsb' 8 32 = s.faultWord
      ∧ s.faultView.toNat < 2 ^ 40)
    ∧ (s.param.wf = true →
        (paramView s.param).toNat % 256 = s.param.logN ∧ (paramView s.param).toNat / 256 % 256 = s.param.aw
        ∧ (paramView s.param).getLsbD 16 = s.param.debugVerify
        ∧ (paramView s.param).getLsbD 17 = s.param.matchJ0
        ∧ (paramView s.param).getLsbD 18 = s.param.matchTie ∧ (paramView s.param).toNat < 2 ^ 19)

/-- Register accesses (10_state.md R41): one in the window that is not 64 bits wide at an 8-byte-aligned offset is refused; a read
has no side effect; a write while BUSY is 1 is dropped and raises BusyWrite with the running command's word, which records it
only while no fault is recorded (60_exceptions.md R233). -/
def Obligations.RegisterAccessRules : Prop :=
  ∀ s : State,
    (∀ width off v, off < 0x80 → width ≠ 64 ∨ off % 8 ≠ 0 →
      act (.regWrite width (s.param.regBase + off) v) s = .refused .registerAccess
      ∧ act (.regRead width (s.param.regBase + off)) s = .refused .registerAccess)
    ∧ (∀ off, off % 8 = 0 → off < 0x80 → ∃ w,
        act (.regRead 64 (s.param.regBase + off)) s = .next
          { s with hostReads := .reg (s.param.regBase + off) w :: s.hostReads })
    ∧ (∀ off v, off % 8 = 0 → off < 0x80 → s.busy = true →
        (s.faultCause = .none → act (.regWrite 64 (s.param.regBase + off) v) s = .next
          { s with faultCause := .busyWrite, faultWord := s.cmdWord })
        ∧ (s.faultCause ≠ .none → act (.regWrite 64 (s.param.regBase + off) v) s = .next s))

/-- BusyWrite (60_exceptions.md R233): the running command completes normally once no action is pending. That a state with
BUSY 1 has a command yet to run is the model's choice (log entry 9): no step of the model leaves BUSY at 1. -/
def Obligations.RunningCommandCompletes : Prop :=
  ∀ (s : State) (i : Instr), s.pending = [] → s.busy = true → s.cmdWord = encode i → step s = exec i s

/-- An idle block holds all state (60_exceptions.md R238). -/
def Obligations.IdleBlockHoldsItsState : Prop :=
  ∀ s : State, s.pending = [] → s.busy = false → step s = .next s

/-- Host DMEM accesses between commands (20_memory.md R60, R61): a write stores one byte and leaves every other, a read returns
the byte and changes nothing; an address at or above `2^AW` stops the model (log entry 10, the model's choice). -/
def Obligations.HostDmemAccess : Prop :=
  ∀ (s : State) (rest : List HostAction) (a : Nat), s.busy = false →
    (∀ v, s.pending = .memWrite a v :: rest → a < 2 ^ s.param.aw →
      ∃ t, step s = .next t ∧ t.byteAt a = v ∧ (∀ x, x ≠ a → t.byteAt x = s.byteAt x)
        ∧ t = { s with pending := rest, dmem := t.dmem })
    ∧ (s.pending = .memRead a :: rest → a < 2 ^ s.param.aw →
      step s = .next { s with pending := rest, hostReads := .mem a (s.byteAt a) :: s.hostReads })
    ∧ (∀ v, s.pending = .memWrite a v :: rest → 2 ^ s.param.aw ≤ a → step s = .fault .dmemOutside)
    ∧ (s.pending = .memRead a :: rest → 2 ^ s.param.aw ≤ a → step s = .fault .dmemOutside)

/-! ## All commands -/

/-- Every command ends (70_reset_and_hazards.md R272) with BUSY 0 (10_state.md R34) and leaves PARAM, the ARG registers (R35) and
the model's fields for the host alone. -/
def Obligations.EveryCommandEndsAndKeepsOperands : Prop :=
  ∀ (i : Instr) (s : State), ∃ t, exec i s = .next t ∧ t.busy = false ∧ t.param = s.param
    ∧ t.arg0 = s.arg0 ∧ t.arg1 = s.arg1 ∧ t.arg2 = s.arg2
    ∧ t.cmdWord = s.cmdWord ∧ t.pending = s.pending ∧ t.hostReads = s.hostReads

/-- HEAP.* commands leave the session, its port and DMEM alone (40_heap.md R108, 20_memory.md R60). -/
def Obligations.HeapCommandsLeaveTheSession : Prop :=
  ∀ (i : Instr) (s t : State),
    i ∈ [Instr.heapInit, .heapAdd, .heapInc, .heapPath, .heapVerify, .heapRdnode, .heapRdtab] →
    exec i s = .next t → t.chan = s.chan ∧ t.dmem = s.dmem

/-- Only HEAP.INIT, HEAP.ADD and HEAP.INC write the FHU, and only CX.DECOMPRESS writes DMEM (10_state.md R42,
20_memory.md R60). -/
def Obligations.OtherCommandsLeaveHeapAndDmem : Prop :=
  ∀ (i : Instr) (s t : State), exec i s = .next t →
    (i ∉ [Instr.heapInit, .heapAdd, .heapInc] → t.fhu = s.fhu)
    ∧ (i ≠ .cxDecompress → t.dmem = s.dmem)

/-- Faults are precise (60_exceptions.md R226, R227, R232): a command that records a fault other than InvariantViolation changes
FAULT and BUSY and nothing else; InvariantViolation comes from HEAP.ADD and HEAP.INC with DEBUG_VERIFY = 1 and a heap that
fails `verify()`, and there it is recorded: a HEAP.ADD or HEAP.INC that records no fault with DEBUG_VERIFY = 1 leaves a heap that
passes. The word recorded is the command's. -/
def Obligations.FaultsArePrecise : Prop :=
  ∀ (i : Instr) (s t : State), s.faultCause = .none → exec i s = .next t →
    (t.faultCause ≠ .none →
      t.faultWord = encode i
      ∧ (t.faultCause ≠ .invariantViolation →
          t = { s with faultCause := t.faultCause, faultWord := encode i, busy := false })
      ∧ (t.faultCause = .invariantViolation →
          (i = .heapAdd ∨ i = .heapInc) ∧ s.param.debugVerify = true ∧ t.fhu.verify s.param = false))
    ∧ (t.faultCause = .none → i = .heapAdd ∨ i = .heapInc → s.param.debugVerify = true → t.fhu.verify s.param = true)

/-- The first error of a session wins (60_exceptions.md R222): SetErr keeps a code that is set, and every command but BC.OPENW and
BC.OPENR leaves a set ERR as it is. -/
def Obligations.FirstErrorWins : Prop :=
  (∀ (c : Channel) (e : Err), (c.setErr e).err = if c.err = .clear then e else c.err)
  ∧ ∀ (i : Instr) (s t : State), i ≠ .bcOpenw → i ≠ .bcOpenr → s.chan.err ≠ .clear → exec i s = .next t →
      t.chan.err = s.chan.err

/-- WORDS (10_state.md R31) grows by one for every port transaction a command makes, whatever the answer; BC.OPENW and BC.OPENR
reset it to 0. The trace, newest first, is the model's record of the transactions (log entry 6). -/
def Obligations.WordsCountsTransactions : Prop :=
  ∀ (i : Instr) (s t : State), exec i s = .next t →
    ∃ made : List PortEvent, t.chan.port.trace = made ++ s.chan.port.trace
      ∧ t.chan.words = (if i = .bcOpenw ∨ i = .bcOpenr then 0#64 else s.chan.words)
          + BitVec.ofNat 64 made.length

/-- The sticky-error short-circuit (41_bitchannel.md R160): with ERR set and its fault checks passed, each BC and CX data command
does nothing but write the results named for that case; CX.COMPRESS and CX.DECOMPRESS end the session. -/
def Obligations.StickyErrorShortCircuits : Prop :=
  ∀ s : State, s.chan.err ≠ .clear →
    (s.chan.dir = .write →
      exec .bcWbit s = .next { s with busy := false }
      ∧ (s.arg1.toNat ≤ 64 → exec .bcWbits s = .next { s with busy := false })
      ∧ (1 ≤ s.arg1.toNat → s.arg1.toNat ≤ 64 → exec .bcWnum s = .next { s with busy := false })
      ∧ exec .bcFlush s = .next { s with busy := false }
      ∧ exec .cxWhdr s = .next { s with busy := false }
      ∧ (s.arg0.toNat + s.arg1.toNat ≤ 2 ^ s.param.aw →
          exec .cxCompress s = .next { s with chan := { s.chan with dir := .none }
                                              res0 := s.chan.words, res1 := 0#64, busy := false }))
    ∧ (s.chan.dir = .read →
      exec .bcRbit s = .next { s with res0 := 0#64, busy := false }
      ∧ (s.arg0.toNat ≤ 64 → exec .bcRbits s = .next { s with res0 := 0#64, busy := false })
      ∧ (1 ≤ s.arg0.toNat → s.arg0.toNat ≤ 64 → exec .bcRnum s = .next { s with res0 := 0#64, busy := false })
      ∧ exec .cxRhdr s = .next { s with busy := false }
      ∧ (s.arg0.toNat + s.arg1.toNat ≤ 2 ^ s.param.aw →
          exec .cxDecompress s = .next { s with chan := { s.chan with dir := .none }
                                                res0 := 0#64, busy := false }))

/-- NoSession (60_exceptions.md R225): a data command whose direction is not the session's faults and does nothing else,
whatever its operands and ERR are (R229). -/
def Obligations.WrongDirectionFaultsWithNoSession : Prop :=
  ∀ (i : Instr) (s : State), s.faultCause = .none →
    (i ∈ [Instr.bcWbit, .bcWbits, .bcWnum, .bcFlush, .cxWhdr, .cxCompress] → s.chan.dir ≠ .write →
      exec i s = .next { s with faultCause := .noSession, faultWord := encode i, busy := false })
    ∧ (i ∈ [Instr.bcRbit, .bcRbits, .bcRnum, .cxRhdr, .cxDecompress] → s.chan.dir ≠ .read →
      exec i s = .next { s with faultCause := .noSession, faultWord := encode i, busy := false })

/-- The other operand checks (60_exceptions.md R225, in the order of R229): OperandRange, SymbolRange, SymbolAbsent,
SymbolDuplicate, HeapFull and BadAddress, each with its fault and nothing else. -/
def Obligations.OperandChecksFault : Prop :=
  ∀ s : State, s.faultCause = .none →
    (s.chan.dir = .write → 64 < s.arg1.toNat →
      exec .bcWbits s = .next { s with faultCause := .operandRange, faultWord := 0x14#32, busy := false })
    ∧ (s.chan.dir = .write → s.arg1.toNat = 0 ∨ 64 < s.arg1.toNat →
      exec .bcWnum s = .next { s with faultCause := .operandRange, faultWord := 0x15#32, busy := false })
    ∧ (s.chan.dir = .read → 64 < s.arg0.toNat →
      exec .bcRbits s = .next { s with faultCause := .operandRange, faultWord := 0x18#32, busy := false })
    ∧ (s.chan.dir = .read → s.arg0.toNat = 0 ∨ 64 < s.arg0.toNat →
      exec .bcRnum s = .next { s with faultCause := .operandRange, faultWord := 0x19#32, busy := false })
    ∧ (2 * 2 ^ s.param.logN ≤ s.arg0.toNat →
      exec .heapRdnode s = .next { s with faultCause := .operandRange, faultWord := 0x06#32, busy := false })
    ∧ (2 ^ s.param.logN ≤ s.arg0.toNat →
      exec .heapAdd s = .next { s with faultCause := .symbolRange, faultWord := 0x02#32, busy := false }
      ∧ exec .heapInc s = .next { s with faultCause := .symbolRange, faultWord := 0x03#32, busy := false }
      ∧ exec .heapPath s = .next { s with faultCause := .symbolRange, faultWord := 0x04#32, busy := false }
      ∧ exec .heapRdtab s = .next { s with faultCause := .symbolRange, faultWord := 0x07#32, busy := false })
    ∧ (s.arg0.toNat < 2 ^ s.param.logN → s.fhu.tableAt s.arg0.toNat ≠ 0xFFFFFFFF#32 →
      exec .heapAdd s = .next { s with faultCause := .symbolDuplicate, faultWord := 0x02#32, busy := false })
    ∧ (s.arg0.toNat < 2 ^ s.param.logN → s.fhu.tableAt s.arg0.toNat = 0xFFFFFFFF#32 →
      exec .heapInc s = .next { s with faultCause := .symbolAbsent, faultWord := 0x03#32, busy := false }
      ∧ (2 * 2 ^ s.param.logN < s.fhu.nc.toNat + (if s.fhu.nc.toNat < 2 then 1 else 2) →
          exec .heapAdd s = .next { s with faultCause := .heapFull, faultWord := 0x02#32, busy := false }))
    ∧ (2 ^ s.param.aw < s.arg0.toNat + s.arg1.toNat →
      (s.chan.dir = .write →
        exec .cxCompress s = .next { s with faultCause := .badAddress, faultWord := 0x22#32, busy := false })
      ∧ (s.chan.dir = .read →
        exec .cxDecompress s = .next { s with faultCause := .badAddress, faultWord := 0x23#32, busy := false }))

/-! ## The frequency-heap unit -/

/-- HEAP.INIT (40_heap.md R110): every node cleared, every symbol absent, no live node, and nothing else changed. -/
def Obligations.HeapInitClearsTheHeap : Prop :=
  ∀ s : State, exec .heapInit s = .next
    { s with
      fhu := { freq := List.replicate (2 * 2 ^ s.param.logN) 0#64
               sym := List.replicate (2 * 2 ^ s.param.logN) 0xFFFFFFFF#32
               table := List.replicate (2 ^ s.param.logN) 0xFFFFFFFF#32
               nc := 0#32 }
      busy := false }

/-- HEAP.ADD of an absent symbol (40_heap.md R109, R111) completes: one node is appended while fewer than two are live, else an
internal node holding the sum of the nodes at the two highest live indices and then the new leaf; the nodes are a
rearrangement of the old ones and the new ones; RES0, TABLE and SYM agree on the leaf's final index; nothing else changes
but FAULT, where DEBUG_VERIFY = 1 records InvariantViolation exactly when `verify()` fails afterwards (60_exceptions.md R232).
Where no live node and no merged sum is 0, the leaf stays at the last index, since it exceeds no parent (R102); the merged node then
rises from the old `NC` in a heap with `H`, and every node off its way stays. -/
def Obligations.HeapAddAppendsMergeAndLeaf : Prop :=
  ∀ (s : State) (c : Nat) (sum : Word), FhuOk s.param s.fhu → s.arg0.toNat < s.param.n →
    s.fhu.tableAt s.arg0.toNat = absent →
    c = s.fhu.nc.toNat → sum = s.fhu.freqAt (c - 2) + s.fhu.freqAt (c - 1) →
    ∃ t ix, exec .heapAdd s = .next t ∧ ix < t.fhu.nc.toNat ∧ t.res0 = BitVec.ofNat 64 ix
      ∧ t.fhu.tableAt s.arg0.toNat = BitVec.ofNat 32 ix
      ∧ t.fhu.symAt ix = BitVec.ofNat 32 s.arg0.toNat ∧ t.fhu.freqAt ix = 1#64
      ∧ t.fhu.nc.toNat = c + (if c < 2 then 1 else 2)
      ∧ t.fhu.nodes.Perm ((1#64, BitVec.ofNat 32 s.arg0.toNat)
          :: (if c < 2 then [] else [(sum, internal)]) ++ s.fhu.nodes)
      ∧ ((∀ k, k < c → s.fhu.freqAt k ≠ 0#64) → c < 2 ∨ sum ≠ 0#64 →
          ix = t.fhu.nc.toNat - 1
          ∧ (c < 2 → ∀ k, k ≠ c → t.fhu.freqAt k = s.fhu.freqAt k ∧ t.fhu.symAt k = s.fhu.symAt k)
          ∧ (2 ≤ c → s.fhu.Ordered → ∃ j, Rises s.fhu t.fhu c j sum internal ∧ t.fhu.freqAt j = sum
              ∧ (∀ a, a ∈ ancestors j → t.fhu.freqAt a = s.fhu.freqAt a)
              ∧ ∀ k, k ∉ c :: ancestors c → k ≠ c + 1 →
                  t.fhu.freqAt k = s.fhu.freqAt k ∧ t.fhu.symAt k = s.fhu.symAt k))
      ∧ t = { s with fhu := t.fhu, res0 := t.res0, faultCause := t.faultCause, faultWord := t.faultWord
                     busy := false }
      ∧ (s.param.debugVerify = false ∨ t.fhu.verify s.param = true →
          t.faultCause = s.faultCause ∧ t.faultWord = s.faultWord)
      ∧ (s.faultCause = .none → s.param.debugVerify = true → t.fhu.verify s.param = false →
          t.faultCause = .invariantViolation ∧ t.faultWord = encode .heapAdd)

/-- HEAP.INC of a present symbol (40_heap.md R102, R112, 10_state.md R27) completes: the symbol's node gains one and rises past the
ancestors it exceeds to RES0, where TABLE and SYM find it; each node it passed stands one place down the path; every ancestor of it
keeps its symbol and is the sum of its array children; every index off the path from the old index to
the root keeps its node; nothing else changes but FAULT, where DEBUG_VERIFY = 1 records InvariantViolation exactly when `verify()`
fails afterwards (60_exceptions.md R232). At the wrap of R107 and in a heap without `H` the node can
sink instead: there the structure is kept (StepKeepsTheHeapStructure) and the command ends (EveryCommandEndsAndKeepsOperands). -/
def Obligations.HeapIncBumpsAndRecomputes : Prop :=
  ∀ (s : State) (p : Nat), FhuOk s.param s.fhu → s.fhu.Ordered → s.arg0.toNat < s.param.n →
    s.fhu.tableAt s.arg0.toNat ≠ absent → p = (s.fhu.tableAt s.arg0.toNat).toNat →
    s.fhu.freqAt p ≠ 0xFFFFFFFFFFFFFFFF#64 →
    ∃ t ix, exec .heapInc s = .next t
      ∧ Rises s.fhu t.fhu p ix (s.fhu.freqAt p + 1#64) (BitVec.ofNat 32 s.arg0.toNat)
      ∧ t.fhu.freqAt ix = s.fhu.freqAt p + 1#64
      ∧ t.res0 = BitVec.ofNat 64 ix ∧ t.fhu.tableAt s.arg0.toNat = BitVec.ofNat 32 ix
      ∧ (∀ a, a ∈ ancestors ix → t.fhu.freqAt a = t.fhu.liveFreqAt (2 * a + 1) + t.fhu.liveFreqAt (2 * a + 2))
      ∧ (∀ k, k ∉ p :: ancestors p → t.fhu.freqAt k = s.fhu.freqAt k ∧ t.fhu.symAt k = s.fhu.symAt k)
      ∧ t.fhu.nc = s.fhu.nc
      ∧ t = { s with fhu := t.fhu, res0 := t.res0, faultCause := t.faultCause, faultWord := t.faultWord
                     busy := false }
      ∧ (s.param.debugVerify = false ∨ t.fhu.verify s.param = true →
          t.faultCause = s.faultCause ∧ t.faultWord = s.faultWord)
      ∧ (s.faultCause = .none → s.param.debugVerify = true → t.fhu.verify s.param = false →
          t.faultCause = .invariantViolation ∧ t.faultWord = encode .heapInc)

/-- HEAP.PATH of a present symbol (40_heap.md R104, R113): RES0 is its index, RES2 the depth `floor(log2(index + 1))`, and RES1 a path
below `2^depth` whose bits, from bit 0 upward, are the branches from the root down to the index. -/
def Obligations.HeapPathLeadsToTheIndex : Prop :=
  ∀ s : State, s.arg0.toNat < s.param.n → s.fhu.tableAt s.arg0.toNat ≠ absent →
    ∃ path len, exec .heapPath s = .next
        { s with res0 := (s.fhu.tableAt s.arg0.toNat).setWidth 64, res1 := path, res2 := BitVec.ofNat 64 len
                 busy := false }
      ∧ descend path len = (s.fhu.tableAt s.arg0.toNat).toNat ∧ path.toNat < 2 ^ len
      ∧ 2 ^ len ≤ (s.fhu.tableAt s.arg0.toNat).toNat + 1
      ∧ (s.fhu.tableAt s.arg0.toNat).toNat + 1 < 2 ^ (len + 1)

/-- HEAP.PATH of a symbol never inserted (40_heap.md R113): index -1, path 0, length 0, and no fault. -/
def Obligations.HeapPathOfAbsentSymbol : Prop :=
  ∀ s : State, s.arg0.toNat < 2 ^ s.param.logN → s.fhu.tableAt s.arg0.toNat = 0xFFFFFFFF#32 →
    exec .heapPath s = .next
      { s with res0 := 0xFFFFFFFFFFFFFFFF#64, res1 := 0#64, res2 := 0#64, busy := false }

/-- HEAP.VERIFY (40_heap.md R105, R114): RES0 is 1 when the invariants `H` and `T` of 10_state.md R26 hold and 0 otherwise, and
nothing else changes: it never faults. -/
def Obligations.HeapVerifyDecidesTheInvariants : Prop :=
  ∀ s : State,
    (s.fhu.Ordered ∧ s.fhu.TableCorrect s.param → exec .heapVerify s = .next { s with res0 := 1#64, busy := false })
    ∧ (¬ (s.fhu.Ordered ∧ s.fhu.TableCorrect s.param) →
        exec .heapVerify s = .next { s with res0 := 0#64, busy := false })

/-- HEAP.RDNODE (40_heap.md R115): RES0 is `FREQ[k]`, RES1 is `SYM[k]` sign-extended, RES2 the live flag; an index of `CAP` or more
faults with OperandRange. -/
def Obligations.HeapRdnodeReadsOneNode : Prop :=
  ∀ (s : State) (f : Word) (y : Entry),
    (s.arg0.toNat < 2 * 2 ^ s.param.logN → s.fhu.freq[s.arg0.toNat]? = some f →
      s.fhu.sym[s.arg0.toNat]? = some y →
      exec .heapRdnode s = .next
        { s with res0 := f, res1 := y.signExtend 64, res2 := if s.arg0.toNat < s.fhu.nc.toNat then 1#64 else 0#64
                 busy := false })
    ∧ (2 * 2 ^ s.param.logN ≤ s.arg0.toNat → s.faultCause = .none →
      exec .heapRdnode s = .next { s with faultCause := .operandRange, faultWord := 0x06#32, busy := false })

/-- HEAP.RDTAB (40_heap.md R116): RES0 is `TABLE[s]` sign-extended; a symbol of `N` or more faults with SymbolRange. -/
def Obligations.HeapRdtabReadsOneEntry : Prop :=
  ∀ (s : State) (e : Entry),
    (s.arg0.toNat < 2 ^ s.param.logN → s.fhu.table[s.arg0.toNat]? = some e →
      exec .heapRdtab s = .next { s with res0 := e.signExtend 64, busy := false })
    ∧ (2 ^ s.param.logN ≤ s.arg0.toNat → s.faultCause = .none →
      exec .heapRdtab s = .next { s with faultCause := .symbolRange, faultWord := 0x07#32, busy := false })

/-- HeapFull is unreachable (40_heap.md R117 (a), (b)): under the structural invariant HEAP.ADD never records it, and `NC` is at
most `CAP - 2`. -/
def Obligations.HeapFullIsUnreachable : Prop :=
  ∀ s t : State, FhuOk s.param s.fhu →
    s.fhu.nc.toNat + 2 ≤ s.param.cap
    ∧ (s.faultCause = .none → exec .heapAdd s = .next t → t.faultCause ≠ .heapFull)

/-- `verify()` holds after every operation (40_heap.md R117 (e), property S1 of 95_test_vectors.md): under the structural
invariant, with `H` holding before and no frequency near the wrap of R107, HEAP.ADD and HEAP.INC leave a heap that satisfies
`verify()` and record no InvariantViolation. -/
def Obligations.VerifyHoldsAfterEveryMutation : Prop :=
  ∀ (s t : State) (i : Instr), FhuOk s.param s.fhu → s.fhu.Ordered → s.fhu.FarFromWrap →
    i = .heapAdd ∨ i = .heapInc → exec i s = .next t →
    t.fhu.Ordered ∧ t.fhu.verify s.param = true
      ∧ (s.faultCause ≠ .invariantViolation → t.faultCause ≠ .invariantViolation)

/-! ## The bit channel -/

/-- BC.OPENW, BC.OPENR and BC.CLOSE (41_bitchannel.md R150, R151, R152): the first two set the direction and clear the rest of the
session, ERR included, and STATUS then reads 0x4 or 0x8 while no fault is recorded; BC.CLOSE drops the direction and keeps ACC,
CURSOR, WORDS and ERR. None of them depends on ERR, and nothing is flushed. -/
def Obligations.SessionOpenAndClose : Prop :=
  ∀ s : State,
    (∃ t, exec .bcOpenw s = .next t
      ∧ t = { s with chan := { dir := .write, acc := 0#64, cursor := 0#7, words := 0#64, err := .clear
                               port := s.chan.port }, busy := false }
      ∧ (s.faultCause = .none → t.readReg 0x40 = 0x4#64))
    ∧ (∃ t, exec .bcOpenr s = .next t
      ∧ t = { s with chan := { dir := .read, acc := 0#64, cursor := 0#7, words := 0#64, err := .clear
                               port := s.chan.port }, busy := false }
      ∧ (s.faultCause = .none → t.readReg 0x40 = 0x8#64))
    ∧ exec .bcClose s = .next { s with chan := { s.chan with dir := .none }, busy := false }
    ∧ (s.chan.dir = .none → exec .bcClose s = .next { s with busy := false })

/-- BC.WBIT (41_bitchannel.md R140, R153) appends bit 0 of ARG0: below CURSOR 64 it is placed with no transaction; at CURSOR 64
the full word is offered first, and if it is refused the bit is dropped with ACC and CURSOR kept. -/
def Obligations.WbitAppendsOneBit : Prop :=
  ∀ s : State, s.chan.dir = .write → s.chan.Ok → s.chan.err = .clear →
    ∃ t, exec .bcWbit s = .next t ∧ t = { s with chan := t.chan, busy := false } ∧ t.chan.dir = .write
      ∧ (s.chan.cursor.toNat < 64 →
          t.chan.acc.toNat = s.chan.acc.toNat + (s.arg0.toNat % 2) * 2 ^ s.chan.cursor.toNat
          ∧ t.chan.cursor.toNat = s.chan.cursor.toNat + 1 ∧ t.chan.err = .clear
          ∧ t.chan.words = s.chan.words ∧ t.chan.port = s.chan.port)
      ∧ (s.chan.cursor.toNat = 64 → s.chan.port.nextWrite = .ok →
          t.chan.acc.toNat = s.arg0.toNat % 2 ∧ t.chan.cursor.toNat = 1 ∧ t.chan.err = .clear
          ∧ t.chan.words = s.chan.words + 1#64
          ∧ t.chan.port.trace = .wrote s.chan.acc .ok :: s.chan.port.trace)
      ∧ (s.chan.cursor.toNat = 64 → s.chan.port.nextWrite = .fail →
          t.chan.acc = s.chan.acc ∧ t.chan.cursor = s.chan.cursor ∧ t.chan.err = .ioFailure
          ∧ t.chan.words = s.chan.words + 1#64
          ∧ t.chan.port.trace = .wrote s.chan.acc .fail :: s.chan.port.trace)
      ∧ (t.chan.err = .clear → t.chan.written = s.chan.written ++ [s.arg0.getLsbD 0])

/-- BC.WBITS (41_bitchannel.md R140, R141, R154) appends the low `n` bits of ARG0 to the written stream, least-significant first.
With room in ACC it makes no transaction; else it offers one word, ACC filled up. Where that is refused, ERR is IOFailure, the
word stays in ACC with CURSOR 64, and the bits above it are dropped. -/
def Obligations.WbitsAppendsLowBits : Prop :=
  ∀ s : State, s.chan.dir = .write → s.chan.Ok → s.chan.err = .clear → s.arg1.toNat ≤ 64 →
    ∃ t, exec .bcWbits s = .next t ∧ t = { s with chan := t.chan, busy := false } ∧ t.chan.dir = .write
      ∧ (t.chan.err = .clear → t.chan.written = s.chan.written ++ lowBits s.arg0 s.arg1.toNat)
      ∧ (s.chan.cursor.toNat + s.arg1.toNat ≤ 64 →
          t.chan.err = .clear ∧ t.chan.port = s.chan.port ∧ t.chan.words = s.chan.words
          ∧ t.chan.cursor.toNat = s.chan.cursor.toNat + s.arg1.toNat)
      ∧ (64 < s.chan.cursor.toNat + s.arg1.toNat → ∃ full : Word,
          wordBits full = (lowBits s.chan.acc s.chan.cursor.toNat ++ lowBits s.arg0 s.arg1.toNat).take 64
          ∧ t.chan.words = s.chan.words + 1#64
          ∧ t.chan.port.trace = .wrote full s.chan.port.nextWrite :: s.chan.port.trace
          ∧ (s.chan.port.nextWrite = .ok →
              t.chan.err = .clear ∧ t.chan.cursor.toNat = s.chan.cursor.toNat + s.arg1.toNat - 64)
          ∧ (s.chan.port.nextWrite = .fail →
              t.chan.err = .ioFailure ∧ t.chan.cursor.toNat = 64 ∧ t.chan.acc = full))

/-- BC.WNUM (41_bitchannel.md R140, R142, R155) appends `VL(ARG0, ARG1)` (30_encoding.md R89) to the written stream, `c * (base + 1)` bits
for the least positive `c` with `ARG0 < 2^(c*base)` (R88). It offers a word each time ACC is full and a further bit comes, at
most two. Where one is refused, ERR is IOFailure, the word stays in ACC with CURSOR 64, and the bits above it are dropped. -/
def Obligations.WnumAppendsTheNumberCode : Prop :=
  ∀ s : State, s.chan.dir = .write → s.chan.Ok → s.chan.err = .clear → 1 ≤ s.arg1.toNat → s.arg1.toNat ≤ 64 →
    (∃ c, 1 ≤ c ∧ s.arg0.toNat < 2 ^ (c * s.arg1.toNat)
      ∧ (c = 1 ∨ 2 ^ ((c - 1) * s.arg1.toNat) ≤ s.arg0.toNat)
      ∧ (vlCode s.arg1.toNat s.arg0).length = c * (s.arg1.toNat + 1))
    ∧ ∃ t bits, exec .bcWnum s = .next t ∧ t = { s with chan := t.chan, busy := false } ∧ t.chan.dir = .write
      ∧ bits = lowBits s.chan.acc s.chan.cursor.toNat ++ vlCode s.arg1.toNat s.arg0 ∧ bits.length ≤ 192
      ∧ (t.chan.err = .clear → t.chan.written = s.chan.written ++ vlCode s.arg1.toNat s.arg0)
      ∧ (bits.length ≤ 64 → t.chan.err = .clear ∧ t.chan.port = s.chan.port ∧ t.chan.words = s.chan.words)
      ∧ (64 < bits.length → s.chan.port.nextWrite = .fail →
          t.chan.err = .ioFailure ∧ t.chan.cursor.toNat = 64 ∧ wordBits t.chan.acc = bits.take 64
          ∧ t.chan.words = s.chan.words + 1#64
          ∧ t.chan.port.trace = .wrote t.chan.acc .fail :: s.chan.port.trace)
      ∧ (64 < bits.length → bits.length ≤ 128 → s.chan.port.nextWrite = .ok →
          t.chan.err = .clear ∧ t.chan.words = s.chan.words + 1#64)
      ∧ (∀ more, 128 < bits.length → s.chan.port.writeAnswers = .ok :: .fail :: more →
          t.chan.err = .ioFailure ∧ t.chan.cursor.toNat = 64 ∧ wordBits t.chan.acc = (bits.drop 64).take 64
          ∧ t.chan.words = s.chan.words + 2#64
          ∧ ∃ first, wordBits first = bits.take 64
              ∧ t.chan.port.trace = .wrote t.chan.acc .fail :: .wrote first .ok :: s.chan.port.trace)
      ∧ (∀ more, 128 < bits.length → s.chan.port.writeAnswers = .ok :: .ok :: more →
          t.chan.err = .clear ∧ t.chan.words = s.chan.words + 2#64)

/-- BC.FLUSH (41_bitchannel.md R143, R156): with nothing pending it does nothing; else ACC is offered, and if it is accepted the
writer is empty and the stream is padded with zeros to a whole word; if it is refused ACC and CURSOR are kept. -/
def Obligations.FlushPadsTheLastWord : Prop :=
  ∀ s : State, s.chan.dir = .write → s.chan.Ok → s.chan.err = .clear →
    (s.chan.cursor.toNat = 0 → exec .bcFlush s = .next { s with busy := false })
    ∧ (0 < s.chan.cursor.toNat → ∃ t, exec .bcFlush s = .next t ∧ t = { s with chan := t.chan, busy := false }
        ∧ t.chan.dir = .write ∧ t.chan.words = s.chan.words + 1#64
        ∧ t.chan.port.trace = .wrote s.chan.acc s.chan.port.nextWrite :: s.chan.port.trace
        ∧ (s.chan.port.nextWrite = .ok →
            t.chan.acc = 0#64 ∧ t.chan.cursor = 0#7 ∧ t.chan.err = .clear
            ∧ t.chan.written = s.chan.written ++ List.replicate (64 - s.chan.cursor.toNat) false)
        ∧ (s.chan.port.nextWrite = .fail →
            t.chan.acc = s.chan.acc ∧ t.chan.cursor = s.chan.cursor ∧ t.chan.err = .ioFailure))

/-- BC.RBIT (41_bitchannel.md R144, R157) takes the next bit of the read stream into RES0; where a fresh word is needed and its read
fails, RES0 is 0, ERR is IOFailure, and ACC and CURSOR are kept. -/
def Obligations.RbitTakesTheNextBit : Prop :=
  ∀ s : State, s.chan.dir = .read → s.chan.Ok → s.chan.err = .clear →
    (∀ b rest, s.chan.unread = b :: rest → ∃ t, exec .bcRbit s = .next t
        ∧ t = { s with chan := t.chan, res0 := if b then 1#64 else 0#64, busy := false }
        ∧ t.chan.dir = .read ∧ t.chan.err = .clear ∧ t.chan.unread = rest
        ∧ t.chan.words = s.chan.words + (if s.chan.cursor.toNat = 0 then 1#64 else 0#64))
    ∧ (s.chan.cursor.toNat = 0 → s.chan.port.nextRead = .fail → ∃ t, exec .bcRbit s = .next t
        ∧ t = { s with chan := t.chan, res0 := 0#64, busy := false }
        ∧ t.chan.dir = .read ∧ t.chan.err = .ioFailure ∧ t.chan.acc = s.chan.acc
        ∧ t.chan.cursor = s.chan.cursor ∧ t.chan.words = s.chan.words + 1#64
        ∧ t.chan.port.trace = .asked .fail :: s.chan.port.trace)

/-- BC.RBITS (41_bitchannel.md R145, R158) takes the next `n` bits of the read stream, least-significant first, into RES0, where the
stream holds that many. -/
def Obligations.RbitsTakesTheNextBits : Prop :=
  ∀ s : State, s.chan.dir = .read → s.chan.Ok → s.chan.err = .clear → s.arg0.toNat ≤ 64 →
    s.arg0.toNat ≤ s.chan.unread.length →
    ∃ t, exec .bcRbits s = .next t ∧ t = { s with chan := t.chan, res0 := t.res0, busy := false }
      ∧ t.res0.toNat = bitsValue (s.chan.unread.take s.arg0.toNat)
      ∧ t.chan.unread = s.chan.unread.drop s.arg0.toNat
      ∧ t.chan.dir = .read ∧ t.chan.err = .clear

/-- BC.RNUM (41_bitchannel.md R146, R159) reads a number: where the read stream starts with `VL(v, base)`, RES0 is `v` and the stream
goes on after the code. Any chunks that fit are accepted, redundant zero chunks below shift 64 among them: RES0 is their value. -/
def Obligations.RnumReadsTheNumberCode : Prop :=
  ∀ (s : State) (rest : List Bool), s.chan.dir = .read → s.chan.Ok → s.chan.err = .clear →
    1 ≤ s.arg0.toNat → s.arg0.toNat ≤ 64 →
    (∀ v : Word, s.chan.unread = vlCode s.arg0.toNat v ++ rest →
      ∃ t, exec .bcRnum s = .next t ∧ t = { s with chan := t.chan, res0 := v, busy := false }
        ∧ t.chan.unread = rest ∧ t.chan.dir = .read ∧ t.chan.err = .clear)
    ∧ (∀ (as : List Word) (b : Word), ChunksFit s.arg0.toNat (as ++ [b]) → as.length * s.arg0.toNat < 64 →
      s.chan.unread = contChunks s.arg0.toNat as ++ lowBits b s.arg0.toNat ++ false :: rest →
      ∃ t, exec .bcRnum s = .next t
        ∧ t = { s with chan := t.chan, res0 := t.res0, busy := false }
        ∧ t.res0.toNat = chunksValue s.arg0.toNat (as ++ [b])
        ∧ t.chan.unread = rest ∧ t.chan.dir = .read ∧ t.chan.err = .clear)

/-- Where BC.RNUM stops with InvalidParameter (41_bitchannel.md R146, R159), for every base, after any number of fitting chunks: at
a chunk with a one bit at or above bit 64, whose continuation bit is not read, and at a continuation 1 after the chunk that brings
the shift to 64 or more. RES0 is 0. -/
def Obligations.RnumRefusesAnOverflowingChunk : Prop :=
  ∀ (s : State) (rest : List Bool), s.chan.dir = .read → s.chan.Ok → s.chan.err = .clear →
    1 ≤ s.arg0.toNat → s.arg0.toNat ≤ 64 →
    OverflowingChunk s.arg0.toNat s.chan.unread rest ∨ ExcessContinuation s.arg0.toNat s.chan.unread rest →
    ∃ t, exec .bcRnum s = .next t ∧ t = { s with chan := t.chan, res0 := 0#64, busy := false }
      ∧ t.chan.err = .invalidParameter ∧ t.chan.unread = rest ∧ t.chan.dir = .read

/-- A read that runs and ends with ERR set gives 0 (41_bitchannel.md R144, R145, R146, R158), even if some bits were read
before. Where the words run out within the bits of BC.RBITS or within the number of BC.RNUM and the host then fails the read, ERR is
IOFailure: every listed word was taken, CURSOR is 0 and the failed read counts in WORDS. -/
def Obligations.FailedReadsGiveZero : Prop :=
  (∀ s t : State, s.chan.dir = .read → t.chan.err ≠ .clear →
    (exec .bcRbit s = .next t → t.res0 = 0#64)
    ∧ (s.arg0.toNat ≤ 64 → exec .bcRbits s = .next t → t.res0 = 0#64)
    ∧ (1 ≤ s.arg0.toNat → s.arg0.toNat ≤ 64 → exec .bcRnum s = .next t → t.res0 = 0#64))
  ∧ ∀ (i : Instr) (s : State) (ws : List Word) (more : List ReadAnswer),
    s.chan.dir = .read → s.chan.Ok → s.chan.err = .clear → s.arg0.toNat ≤ 64 →
    s.chan.port.readAnswers = ws.map .word ++ .fail :: more →
    (i = .bcRbits ∧ s.chan.unread.length < s.arg0.toNat)
      ∨ (i = .bcRnum ∧ 1 ≤ s.arg0.toNat ∧ CutNumber s.arg0.toNat s.chan.unread) →
    ∃ t, exec i s = .next t ∧ t = { s with chan := t.chan, res0 := 0#64, busy := false }
      ∧ t.chan.dir = .read ∧ t.chan.err = .ioFailure ∧ t.chan.cursor = 0#7
      ∧ t.chan.acc = ws.getLastD s.chan.acc
      ∧ t.chan.words = s.chan.words + BitVec.ofNat 64 (ws.length + 1)
      ∧ t.chan.port.readAnswers = more
      ∧ t.chan.port.trace = .asked .fail :: ((ws.map (fun w => .asked (.word w))).reverse ++ s.chan.port.trace)

/-- The round trip of numbers (41_bitchannel.md R148): what BC.WNUM and BC.FLUSH write in a fresh writer, BC.RNUM with the same base
reads back from a fresh reader whose port returns the written words in order, for every `u64` and every base from 1 to 64. -/
def Obligations.NumberRoundTrip : Prop :=
  ∀ (s a b u : State) (ws : List Word) (more : List ReadAnswer),
    s.chan.dir = .write → s.chan.Ok → s.chan.cursor = 0#7 → s.chan.err = .clear →
    1 ≤ s.arg1.toNat → s.arg1.toNat ≤ 64 →
    exec .bcWnum s = .next a → exec .bcFlush a = .next b → b.chan.err = .clear →
    acceptedWords b.chan.port.trace = acceptedWords s.chan.port.trace ++ ws →
    u.chan.dir = .read → u.chan.cursor = 0#7 → u.chan.err = .clear → u.arg0 = s.arg1 →
    u.chan.port.readAnswers = ws.map .word ++ more →
    ∃ v, exec .bcRnum u = .next v ∧ v.res0 = s.arg0 ∧ v.chan.err = .clear

/-! ## The window codec -/

/-- CX.WHDR (42_codec.md R171, R180): a legal windowBits writes the two raw header words, stopping after a refused first one, and
leaves ACC and CURSOR; an illegal one sets InvalidParameter and writes nothing. -/
def Obligations.WhdrWritesTheHeader : Prop :=
  ∀ s : State, s.chan.dir = .write → s.chan.err = .clear →
    (¬ (10 ≤ s.arg1.toNat ∧ s.arg1.toNat ≤ 20) →
      exec .cxWhdr s = .next { s with chan := { s.chan with err := .invalidParameter }, busy := false })
    ∧ (10 ≤ s.arg1.toNat → s.arg1.toNat ≤ 20 → ∃ t, exec .cxWhdr s = .next t
        ∧ t = { s with chan := t.chan, busy := false }
        ∧ t.chan.dir = .write ∧ t.chan.acc = s.chan.acc ∧ t.chan.cursor = s.chan.cursor
        ∧ (s.chan.port.nextWrite = .fail →
            t.chan.words = s.chan.words + 1#64 ∧ t.chan.err = .ioFailure
            ∧ t.chan.port.trace = .wrote s.arg0 .fail :: s.chan.port.trace)
        ∧ (s.chan.port.nextWrite = .ok → ∃ answer, t.chan.words = s.chan.words + 2#64
            ∧ t.chan.err = (if answer = .ok then .clear else .ioFailure)
            ∧ t.chan.port.trace = .wrote s.arg1 answer :: .wrote s.arg0 .ok :: s.chan.port.trace
            ∧ ∀ first second more, s.chan.port.writeAnswers = first :: second :: more →
                answer = second ∧ t.chan.port.writeAnswers = more))

/-- CX.RHDR (42_codec.md R172, R181): two words read go to RES0 and RES1, with InvalidParameter when the second is no legal
windowBits on all its 64 bits; a failed read writes no result and sets IOFailure, and no read follows it. -/
def Obligations.RhdrReadsTheHeader : Prop :=
  ∀ (s : State) (more : List ReadAnswer), s.chan.dir = .read → s.chan.err = .clear →
    (∀ total wb, s.chan.port.readAnswers = .word total :: .word wb :: more →
      exec .cxRhdr s = .next
        { s with
          res0 := total, res1 := wb, busy := false
          chan := { s.chan with
            words := s.chan.words + 2#64
            err := if 10 ≤ wb.toNat ∧ wb.toNat ≤ 20 then .clear else .invalidParameter
            port := { s.chan.port with
              readAnswers := more
              trace := .asked (.word wb) :: .asked (.word total) :: s.chan.port.trace } } })
    ∧ (∀ total, s.chan.port.readAnswers = .word total :: .fail :: more →
      exec .cxRhdr s = .next
        { s with
          busy := false
          chan := { s.chan with
            words := s.chan.words + 2#64, err := .ioFailure
            port := { s.chan.port with
              readAnswers := more
              trace := .asked .fail :: .asked (.word total) :: s.chan.port.trace } } })
    ∧ (s.chan.port.readAnswers = .fail :: more →
      exec .cxRhdr s = .next
        { s with
          busy := false
          chan := { s.chan with
            words := s.chan.words + 1#64, err := .ioFailure
            port := { s.chan.port with
              readAnswers := more, trace := .asked .fail :: s.chan.port.trace } } })

/-- CX.COMPRESS (42_codec.md R182) completes: it ends the session, reports WORDS and the bytes consumed, and leaves DMEM and RES2
alone. A refused header word leaves none consumed and stops it. After the header it writes the codes of the tokens it chooses (R173,
R174), 64 bits a word. Where all the words are accepted ERR stays clear and every byte is consumed. Where word `k` is refused, ERR is
IOFailure with that word in ACC: if bits follow it, the token whose bit comes next is cut off and the bytes of the tokens up to it,
its own included, are consumed; if it is the last word, offered by the flush, every byte is. -/
def Obligations.CompressCompletes : Prop :=
  ∀ s : State, s.chan.dir = .write → s.chan.err = .clear → s.arg0.toNat + s.arg1.toNat ≤ 2 ^ s.param.aw →
    10 ≤ s.arg2.toNat → s.arg2.toNat ≤ 20 →
    ∃ t, exec .cxCompress s = .next t
      ∧ t = { s with chan := t.chan, res0 := t.chan.words, res1 := t.res1, busy := false }
      ∧ t.chan.dir = .none ∧ t.res1.toNat ≤ s.arg1.toNat
      ∧ (t.chan.err = .clear → t.res1 = s.arg1 ∧ t.chan.acc = 0#64 ∧ t.chan.cursor = 0#7)
      ∧ (s.chan.port.nextWrite = .fail →
          t.res1 = 0#64 ∧ t.chan.words = s.chan.words + 1#64 ∧ t.chan.err = .ioFailure)
      ∧ (∀ more, s.chan.port.writeAnswers = .ok :: .fail :: more →
          t.res1 = 0#64 ∧ t.chan.words = s.chan.words + 2#64 ∧ t.chan.err = .ioFailure)
      ∧ (∀ (tokens : List Token) (bits : List Bool) (k : Nat) (more : List WriteAnswer),
          Chosen s.param s.dmem s.arg0.toNat s.arg1.toNat (2 ^ s.arg2.toNat) 0 tokens →
          bits = tokens.flatMap (Token.code ((s.arg2.toNat - 4) / 2)) →
          (bits.length ≤ 64 * k → s.chan.port.writeAnswers = .ok :: .ok :: List.replicate k .ok ++ more →
            t.chan.err = .clear
            ∧ t.chan.words = s.chan.words + BitVec.ofNat 64 (2 + (bits.length + 63) / 64))
          ∧ (64 * k < bits.length →
              s.chan.port.writeAnswers = .ok :: .ok :: List.replicate k .ok ++ .fail :: more →
              t.chan.err = .ioFailure ∧ t.chan.words = s.chan.words + BitVec.ofNat 64 (k + 3)
              ∧ t.chan.cursor.toNat = min 64 (bits.length - 64 * k)
              ∧ lowBits t.chan.acc t.chan.cursor.toNat = (bits.drop (64 * k)).take 64
              ∧ t.chan.acc.toNat < 2 ^ t.chan.cursor.toNat
              ∧ (bits.length ≤ 64 * (k + 1) → t.res1 = s.arg1)
              ∧ ∀ before cut later, tokens = before ++ cut :: later →
                  (before.flatMap (Token.code ((s.arg2.toNat - 4) / 2))).length ≤ 64 * (k + 1) →
                  64 * (k + 1) < ((before ++ [cut]).flatMap (Token.code ((s.arg2.toNat - 4) / 2))).length →
                  t.res1 = BitVec.ofNat 64 (cursorAfter 0 (before ++ [cut]))))

/-- What CX.COMPRESS writes with ERR clear throughout (30_encoding.md R87, R88, 42_codec.md R174, R184): the byte count, windowBits,
and payload words whose bits are the codes of tokens that spell the input within the bounds of R184 (a), then fewer than 64
zero bits. At each input cursor the token is the match FindMatch gives (R173; FindMatchKeepsALongestRun) if its length is above
2, else the literal (R182). -/
def Obligations.CompressWritesTokensThatSpellTheInput : Prop :=
  ∀ s t : State, s.chan.dir = .write → s.chan.err = .clear → s.arg0.toNat + s.arg1.toNat ≤ 2 ^ s.param.aw →
    10 ≤ s.arg2.toNat → s.arg2.toNat ≤ 20 → exec .cxCompress s = .next t → t.chan.err = .clear →
    ∃ (payload : List Word) (tokens : List Token) (pad : Nat),
      acceptedWords t.chan.port.trace
        = acceptedWords s.chan.port.trace ++ s.arg1 :: s.arg2 :: payload
      ∧ payload.flatMap wordBits
        = tokens.flatMap (Token.code ((s.arg2.toNat - 4) / 2)) ++ List.replicate pad false
      ∧ pad < 64
      ∧ Spells (fun k => s.byteAt (s.arg0.toNat + k)) s.arg1.toNat (2 ^ s.arg2.toNat) 0 tokens
      ∧ Chosen s.param s.dmem s.arg0.toNat s.arg1.toNat (2 ^ s.arg2.toNat) 0 tokens

/-- CX.DECOMPRESS (42_codec.md R175 to R177, R183) completes: it ends the session and reports the bytes produced, at most the
capacity; every byte outside those produced is unchanged; with ERR clear at the end the count is the header's, windowBits matched
and RES1 and RES2 show the header. A failed header read leaves RES1, RES2 and DMEM alone. After a header it accepts, the tokens of
any stream are decoded in turn until the count is reached, or an invalid match, a number out of range or a failed read stops it,
which writes no byte of its token: RES0 is the bytes before it. -/
def Obligations.DecompressCompletes : Prop :=
  ∀ s : State, s.chan.dir = .read → s.chan.err = .clear → s.arg0.toNat + s.arg1.toNat ≤ 2 ^ s.param.aw →
    10 ≤ s.arg2.toNat → s.arg2.toNat ≤ 20 →
    ∃ t, exec .cxDecompress s = .next t
      ∧ t = { s with chan := t.chan, dmem := t.dmem, res0 := t.res0, res1 := t.res1, res2 := t.res2
                     busy := false }
      ∧ t.chan.dir = .none ∧ t.res0.toNat ≤ s.arg1.toNat
      ∧ (∀ a, a < s.arg0.toNat ∨ s.arg0.toNat + t.res0.toNat ≤ a → t.byteAt a = s.byteAt a)
      ∧ (t.chan.err = .clear → t.res0 = t.res1 ∧ t.res2 = s.arg2)
      ∧ (s.chan.port.nextRead = .fail →
          t = { s with chan := t.chan, res0 := 0#64, busy := false } ∧ t.chan.err = .ioFailure
          ∧ t.chan.words = s.chan.words + 1#64)
      ∧ (∀ nh more, s.chan.port.readAnswers = .word nh :: .fail :: more →
          t = { s with chan := t.chan, res0 := 0#64, busy := false } ∧ t.chan.err = .ioFailure
          ∧ t.chan.words = s.chan.words + 2#64)
      ∧ (∀ nh answers tokens rest e, s.chan.port.readAnswers = .word nh :: .word s.arg2 :: answers →
          nh.toNat ≤ s.arg1.toNat →
          (listedWords answers).flatMap wordBits
            = tokens.flatMap (Token.code ((s.arg2.toNat - 4) / 2)) ++ rest →
          ValidTokens nh.toNat (2 ^ s.arg2.toNat) 0 tokens →
          StreamEnds ((s.arg2.toNat - 4) / 2) nh.toNat (2 ^ s.arg2.toNat) (cursorAfter 0 tokens) answers rest e →
          t = { s with
                chan := t.chan, dmem := memAfter s.arg0.toNat 0 tokens s.dmem
                res0 := BitVec.ofNat 64 (cursorAfter 0 tokens), res1 := nh, res2 := s.arg2, busy := false }
          ∧ t.chan.err = e ∧ (e = .clear → t.chan.unread = rest))

/-- A header that CX.DECOMPRESS rejects (42_codec.md R183): windowBits illegal or not ARG2, or a count above the capacity. ERR is
InvalidParameter after the two header reads, RES1 and RES2 show the header, and no byte is written. -/
def Obligations.DecompressRejectsAForeignHeader : Prop :=
  ∀ (s : State) (nh hwb : Word) (more : List ReadAnswer), s.chan.dir = .read → s.chan.err = .clear →
    s.arg0.toNat + s.arg1.toNat ≤ 2 ^ s.param.aw → 10 ≤ s.arg2.toNat → s.arg2.toNat ≤ 20 →
    s.chan.port.readAnswers = .word nh :: .word hwb :: more →
    hwb ≠ s.arg2 ∨ s.arg1.toNat < nh.toNat →
    exec .cxDecompress s = .next
      { s with
        res0 := 0#64, res1 := nh, res2 := hwb, busy := false
        chan := { dir := .none, acc := 0#64, cursor := 0#7, words := s.chan.words + 2#64
                  err := .invalidParameter
                  port := { s.chan.port with
                    readAnswers := more
                    trace := .asked (.word hwb) :: .asked (.word nh) :: s.chan.port.trace } } }

/-- Token decoding undoes token encoding (42_codec.md R174, R175, 30_encoding.md R88): where the read stream starts with a token's
code, DecodeToken gives that token and the stream goes on after the code. -/
def Obligations.DecodeTokenReadsTheTokenCode : Prop :=
  ∀ (c : Channel) (base : Nat) (t : Token) (rest : List Bool), c.dir = .read → c.Ok → c.err = .clear →
    1 ≤ base → base ≤ 64 → c.unread = t.code base ++ rest →
    ∃ c', decodeToken base c = (some t, c') ∧ c'.unread = rest ∧ c'.dir = .read ∧ c'.Ok ∧ c'.err = .clear

/-- An illegal windowBits operand is InvalidParameter before any transaction (42_codec.md R170, R182, R183; 60_exceptions.md
R223). -/
def Obligations.IllegalWindowBitsMakesNoTransaction : Prop :=
  ∀ s : State, s.chan.err = .clear → s.arg0.toNat + s.arg1.toNat ≤ 2 ^ s.param.aw →
    ¬ (10 ≤ s.arg2.toNat ∧ s.arg2.toNat ≤ 20) →
    (s.chan.dir = .write → exec .cxCompress s = .next
      { s with chan := { s.chan with dir := .none, err := .invalidParameter }
               res0 := s.chan.words, res1 := 0#64, busy := false })
    ∧ (s.chan.dir = .read → exec .cxDecompress s = .next
      { s with chan := { s.chan with dir := .none, err := .invalidParameter }
               res0 := 0#64, busy := false })

/-- The codec's round trip (42_codec.md R184 (c), property S3 of 95_test_vectors.md): CX.DECOMPRESS with the same windowBits, a
capacity of at least the length, and a port that returns the words CX.COMPRESS wrote in order, reproduces the input bytes
with RES0 the length and ERR clear. -/
def Obligations.CodecRoundTrip : Prop :=
  ∀ (s t u : State) (ws : List Word) (more : List ReadAnswer),
    s.chan.dir = .write → s.chan.err = .clear → s.arg0.toNat + s.arg1.toNat ≤ 2 ^ s.param.aw →
    10 ≤ s.arg2.toNat → s.arg2.toNat ≤ 20 → exec .cxCompress s = .next t → t.chan.err = .clear →
    acceptedWords t.chan.port.trace = acceptedWords s.chan.port.trace ++ ws →
    u.chan.dir = .read → u.chan.err = .clear → u.arg0.toNat + u.arg1.toNat ≤ 2 ^ u.param.aw →
    u.arg2 = s.arg2 → s.arg1.toNat ≤ u.arg1.toNat → u.chan.port.readAnswers = ws.map .word ++ more →
    ∃ v, exec .cxDecompress u = .next v ∧ v.res0 = s.arg1 ∧ v.chan.err = .clear
      ∧ ∀ k, k < s.arg1.toNat → v.byteAt (u.arg0.toNat + k) = s.byteAt (s.arg0.toNat + k)

/-- The match search (42_codec.md R173): (0, 0) when no candidate has a run; else the distance and length of a longest run, the
first or the last of them by MATCH_TIE. -/
def Obligations.FindMatchKeepsALongestRun : Prop :=
  ∀ (p : Params) (m : Memory) (src n i window pos len : Nat), i < n → findMatch p m src n i window = (pos, len) →
    (len = 0 → pos = 0 ∧ ∀ j, Candidate p i window j → IsRun m src n i j 0)
    ∧ (0 < len → ∃ j, Candidate p i window j ∧ pos = i - j ∧ IsRun m src n i j len
        ∧ ∀ j' k, Candidate p i window j' → IsRun m src n i j' k →
            k ≤ len ∧ (k = len → if p.matchTie then j' ≤ j else j ≤ j'))

/-- The overlapping copy (42_codec.md R177): byte `k` of the copy is the byte `pos` before it, so the `pos` bytes before the cursor
repeat; no other byte changes. -/
def Obligations.MatchCopyRepeatsThePrecedingBytes : Prop :=
  ∀ (m : Memory) (dst pos len i : Nat), 0 < pos → pos ≤ i →
    (∀ k, k < len → (copyMatch dst pos len i m).byte (dst + i + k) = m.byte (dst + i - pos + k % pos))
    ∧ ∀ a, a < dst + i ∨ dst + i + len ≤ a → (copyMatch dst pos len i m).byte a = m.byte a

/-! ## Invariants -/

/-- Every step keeps DMEM in its canonical form, with addresses below `2^AW` only (20_memory.md R60, R62). -/
def Obligations.StepKeepsDmemCanonical : Prop :=
  ∀ s t : State, s.MemOk → step s = .next t → t.MemOk

/-- Every step keeps the session well formed (10_state.md R28 to R30, 41_bitchannel.md R143), BUSY at 0 (10_state.md R34) and
FAULT.CMDWORD at 0 while no fault is recorded (R33). -/
def Obligations.StepKeepsTheSessionWellFormed : Prop :=
  ∀ s t : State, s.SessionOk → step s = .next t → t.SessionOk

/-- Every step keeps the structure of the FHU: the arrays' lengths, `T`, clear dead slots, and `NC` as the adds made it
(10_state.md R21 to R26, 40_heap.md R117 (a), (c)), whether or not a frequency wraps. -/
def Obligations.StepKeepsTheHeapStructure : Prop :=
  ∀ s t : State, FhuOk s.param s.fhu → step s = .next t → FhuOk t.param t.fhu

/-- The state after reset satisfies the invariants, for legal parameters (10_state.md R43, 40_heap.md R105). -/
def Obligations.InvariantsHoldAfterReset : Prop :=
  ∀ p : Params, p.wf = true →
    (State.resetWith p).MemOk ∧ (State.resetWith p).SessionOk
      ∧ FhuOk (State.resetWith p).param (State.resetWith p).fhu
      ∧ (State.resetWith p).fhu.Ordered ∧ (State.resetWith p).fhu.FarFromWrap
end

