-- ==== Sys2Proof/Laws/Channel.lean ====
section
/-! SUPPORT. The session and the port: what each shared operation can do, said once. -/
namespace Sys2Proof.Machine

variable (c : Channel)

/-! `SetErr` and the sessions' updates. -/

@[simp] theorem Channel.setErr_dir (e : Err) : (c.setErr e).dir = c.dir := by unfold Channel.setErr; split <;> rfl
@[simp] theorem Channel.setErr_acc (e : Err) : (c.setErr e).acc = c.acc := by unfold Channel.setErr; split <;> rfl
@[simp] theorem Channel.setErr_cursor (e : Err) : (c.setErr e).cursor = c.cursor := by
  unfold Channel.setErr; split <;> rfl
@[simp] theorem Channel.setErr_words (e : Err) : (c.setErr e).words = c.words := by
  unfold Channel.setErr; split <;> rfl
@[simp] theorem Channel.setErr_port (e : Err) : (c.setErr e).port = c.port := by
  unfold Channel.setErr; split <;> rfl

/-- The error stored by the first `SetErr`. -/
theorem Channel.setErr_of_clear {c : Channel} (h : c.err = .clear) (e : Err) : (c.setErr e).err = e := by
  simp [Channel.setErr, h]

@[simp] theorem Channel.close_dir : c.close.dir = .none := rfl
@[simp] theorem Channel.close_acc : c.close.acc = c.acc := rfl
@[simp] theorem Channel.close_cursor : c.close.cursor = c.cursor := rfl
@[simp] theorem Channel.close_words : c.close.words = c.words := rfl
@[simp] theorem Channel.close_err : c.close.err = c.err := rfl
@[simp] theorem Channel.close_port : c.close.port = c.port := rfl

@[simp] theorem Channel.fresh_dir : c.fresh.dir = c.dir := rfl
@[simp] theorem Channel.fresh_acc : c.fresh.acc = 0 := rfl
@[simp] theorem Channel.fresh_cursor : c.fresh.cursor = 0 := rfl
@[simp] theorem Channel.fresh_words : c.fresh.words = c.words := rfl
@[simp] theorem Channel.fresh_err : c.fresh.err = c.err := rfl
@[simp] theorem Channel.fresh_port : c.fresh.port = c.port := rfl

/-! The port. -/

/-- A write transaction is traced with its answer. -/
@[simp] theorem Port.afterWrite_trace (p : Port) (w : Word) :
    (p.afterWrite w).trace = .wrote w p.nextWrite :: p.trace := by
  unfold Port.afterWrite Port.nextWrite; split <;> rfl

@[simp] theorem Port.afterWrite_readAnswers (p : Port) (w : Word) :
    (p.afterWrite w).readAnswers = p.readAnswers := by unfold Port.afterWrite; split <;> rfl

/-- A read transaction is traced with its answer. -/
@[simp] theorem Port.afterRead_trace (p : Port) : p.afterRead.trace = .asked p.nextRead :: p.trace := by
  unfold Port.afterRead Port.nextRead; split <;> rfl

@[simp] theorem Port.afterRead_writeAnswers (p : Port) : p.afterRead.writeAnswers = p.writeAnswers := by
  unfold Port.afterRead; split <;> rfl

@[simp] theorem portWrite_dir (w : Word) : (portWrite w c).dir = c.dir := by unfold portWrite; split <;> simp
@[simp] theorem portWrite_acc (w : Word) : (portWrite w c).acc = c.acc := by unfold portWrite; split <;> simp
@[simp] theorem portWrite_cursor (w : Word) : (portWrite w c).cursor = c.cursor := by
  unfold portWrite; split <;> simp
@[simp] theorem portWrite_words (w : Word) : (portWrite w c).words = c.words + 1#64 := by
  unfold portWrite; split <;> simp
@[simp] theorem portWrite_port (w : Word) : (portWrite w c).port = c.port.afterWrite w := by
  unfold portWrite; split <;> simp

/-- The error after a write transaction made with the error clear (20_memory.md R63). -/
theorem portWrite_err {c : Channel} (h : c.err = .clear) (w : Word) :
    (portWrite w c).err = match c.port.nextWrite with | .ok => .clear | .fail => .ioFailure := by
  cases ha : c.port.nextWrite <;> simp [portWrite, ha, h, Channel.setErr]

@[simp] theorem portRead_dir : (portRead c).2.dir = c.dir := by unfold portRead; split <;> simp
@[simp] theorem portRead_acc : (portRead c).2.acc = c.acc := by unfold portRead; split <;> simp
@[simp] theorem portRead_cursor : (portRead c).2.cursor = c.cursor := by unfold portRead; split <;> simp
@[simp] theorem portRead_words : (portRead c).2.words = c.words + 1#64 := by unfold portRead; split <;> simp
@[simp] theorem portRead_port : (portRead c).2.port = c.port.afterRead := by unfold portRead; split <;> simp

/-- A read transaction made with the error clear (20_memory.md R64): the word with the error clear, or 0 with IOFailure. -/
theorem portRead_cases {c : Channel} (h : c.err = .clear) :
    (∃ w, c.port.nextRead = .word w ∧ (portRead c).1 = w ∧ (portRead c).2.err = .clear)
      ∨ (c.port.nextRead = .fail ∧ (portRead c).1 = 0#64 ∧ (portRead c).2.err = .ioFailure) := by
  cases ha : c.port.nextRead with
  | word w => exact .inl ⟨w, rfl, by simp [portRead, ha], by simp [portRead, ha, h]⟩
  | fail => exact .inr ⟨rfl, by simp [portRead, ha], by simp [portRead, ha, h, Channel.setErr]⟩

/-! The bit primitives. -/

@[simp] theorem drainFull_dir : (drainFull c).dir = c.dir := by
  unfold drainFull; split
  · dsimp only; split <;> simp
  · rfl

@[simp] theorem placeBit_dir (b : Bool) : (placeBit b c).dir = c.dir := rfl
@[simp] theorem placeBit_words (b : Bool) : (placeBit b c).words = c.words := rfl
@[simp] theorem placeBit_err (b : Bool) : (placeBit b c).err = c.err := rfl
@[simp] theorem placeBit_port (b : Bool) : (placeBit b c).port = c.port := rfl

/-- With an error set no bit is written (41_bitchannel.md R140). -/
theorem writeBit_of_err {c : Channel} (h : c.err ≠ .clear) (b : Bool) : writeBit b c = c := by simp [writeBit, h]

/-- What `writeBit` does with the error clear (41_bitchannel.md R140): the bit is placed; or a full word is accepted first and
the bit placed in an empty accumulator; or the full word is refused and the bit dropped. -/
theorem writeBit_cases {c : Channel} (h : c.err = .clear) (b : Bool) :
    (c.cursor ≠ 64#7 ∧ writeBit b c = placeBit b c)
      ∨ (c.cursor = 64#7 ∧ c.port.nextWrite = .ok
          ∧ writeBit b c = placeBit b { portWrite c.acc c with acc := 0#64, cursor := 0#7 })
      ∨ (c.cursor = 64#7 ∧ c.port.nextWrite = .fail ∧ writeBit b c = portWrite c.acc c) := by
  by_cases hc : c.cursor = 64#7
  · right
    cases ha : c.port.nextWrite with
    | ok =>
      have he := portWrite_err h c.acc
      rw [ha] at he
      exact .inl ⟨hc, rfl, by simp [writeBit, h, drainFull, hc, he]⟩
    | fail =>
      have he := portWrite_err h c.acc
      rw [ha] at he
      exact .inr ⟨hc, rfl, by simp [writeBit, h, drainFull, hc, he]⟩
  · exact .inl ⟨hc, by simp [writeBit, h, drainFull, hc]⟩

@[simp] theorem writeBit_dir (b : Bool) : (writeBit b c).dir = c.dir := by
  unfold writeBit; split
  · rfl
  · dsimp only; split <;> simp

/-- With an error set no bits are written (41_bitchannel.md R141). -/
theorem writeBits_of_err {c : Channel} (h : c.err ≠ .clear) (v : Word) (n : Nat) : writeBits v n c = c := by
  induction n with
  | zero => rfl
  | succ n ih => rw [writeBits, ih, writeBit_of_err h]

/-- What every bit written keeps, the bits written keep. -/
theorem writeBits_induct {P : Channel → Prop} (step : ∀ b c, P c → P (writeBit b c)) {c : Channel} (h : P c)
    (v : Word) (n : Nat) : P (writeBits v n c) := by
  induction n with
  | zero => exact h
  | succ n ih => exact step _ _ ih

/-- What every bit written keeps, a number written keeps. -/
theorem writeNumber_induct {P : Channel → Prop} (step : ∀ b c, P c → P (writeBit b c)) {c : Channel} (h : P c)
    (v : Word) (base : Nat) : P (writeNumber v base c) := by
  unfold writeNumber
  generalize 64 = fuel
  induction fuel generalizing v c with
  | zero => exact h
  | succ fuel ih =>
    unfold writeNumberLoop
    have h' := step (decide (v >>> base ≠ 0)) _ (writeBits_induct step h v base)
    dsimp only
    split
    · exact h'
    · exact ih h' _

/-- What `flush` does (41_bitchannel.md R143). -/
theorem flush_cases {c : Channel} (h : c.err = .clear) :
    (c.cursor = 0#7 ∧ flush c = c)
      ∨ (c.cursor ≠ 0#7 ∧ c.port.nextWrite = .ok ∧ flush c = { portWrite c.acc c with acc := 0#64, cursor := 0#7 })
      ∨ (c.cursor ≠ 0#7 ∧ c.port.nextWrite = .fail ∧ flush c = portWrite c.acc c) := by
  by_cases hc : c.cursor = 0#7
  · exact .inl ⟨hc, by simp [flush, h, hc]⟩
  · have hp : 0 < c.cursor.toNat := by
      rcases Nat.eq_zero_or_pos c.cursor.toNat with h0 | h0
      · exact absurd (BitVec.eq_of_toNat_eq (by simpa using h0)) hc
      · exact h0
    right
    have he := portWrite_err h c.acc
    cases ha : c.port.nextWrite with
    | ok => rw [ha] at he; exact .inl ⟨hc, rfl, by simp [flush, h, hp, he]⟩
    | fail => rw [ha] at he; exact .inr ⟨hc, rfl, by simp [flush, h, hp, he]⟩

/-- With an error set `readBit` gives 0 and reads nothing (41_bitchannel.md R144). -/
theorem readBit_of_err {c : Channel} (h : c.err ≠ .clear) : readBit c = (false, c) := by simp [readBit, h]

/-- What `readBit` does with the error clear (41_bitchannel.md R144): the bit at CURSOR; or the first bit of a fresh word; or 0
after a failed read, which leaves ACC and CURSOR. -/
theorem readBit_cases {c : Channel} (h : c.err = .clear) :
    (c.cursor ≠ 0#7 ∧ readBit c = (c.acc.getLsbD c.cursor.toNat, advanceRead c))
      ∨ (c.cursor = 0#7 ∧ ∃ w, c.port.nextRead = .word w
          ∧ readBit c = (w.getLsbD 0, advanceRead { (portRead c).2 with acc := w }))
      ∨ (c.cursor = 0#7 ∧ c.port.nextRead = .fail ∧ readBit c = (false, (portRead c).2)) := by
  by_cases hc : c.cursor = 0#7
  · right
    rcases portRead_cases h with ⟨w, ha, hw, he⟩ | ⟨ha, hw, he⟩
    · exact .inl ⟨hc, w, ha, by simp [readBit, h, fetchWord, hc, he, hw]⟩
    · exact .inr ⟨hc, ha, by simp [readBit, h, fetchWord, hc, he]⟩
  · exact .inl ⟨hc, by simp [readBit, h, fetchWord, hc]⟩

/-- With an error set `readBits` gives 0 and reads nothing (41_bitchannel.md R145). -/
theorem readBits_of_err {c : Channel} (h : c.err ≠ .clear) (n : Nat) : readBits n c = (0#64, c) := by
  induction n with
  | zero => rfl
  | succ n ih => simp [readBits, ih, readBit_of_err h]

/-- What every bit read keeps, the bits read keep. -/
theorem readBits_induct {P : Channel → Prop} (step : ∀ c, P c → P (readBit c).2) {c : Channel} (h : P c)
    (n : Nat) : P (readBits n c).2 := by
  induction n with
  | zero => exact h
  | succ n ih => exact step _ ih

/-- What every bit read and every `SetErr` keeps, the rounds of a number read keep. -/
theorem readNumberLoop_induct {P : Channel → Prop} (step : ∀ c, P c → P (readBit c).2)
    (err : ∀ c e, P c → P (c.setErr e)) (base fuel : Nat) {sh : Nat} {r : Word} {c : Channel} (h : P c) :
    P (readNumberLoop base fuel sh r c).2 := by
  induction fuel generalizing sh r c with
  | zero => exact h
  | succ fuel ih =>
    unfold readNumberLoop
    have hq := readBits_induct step h base
    have ht := step _ hq
    dsimp only
    repeat' split
    · exact h
    · exact hq
    · exact err _ _ hq
    · exact ht
    · exact ht
    · exact err _ _ ht
    · exact ih ht

/-- What every bit read and every `SetErr` keeps, a number read keeps. -/
theorem readNumber_induct {P : Channel → Prop} (step : ∀ c, P c → P (readBit c).2)
    (err : ∀ c e, P c → P (c.setErr e)) {c : Channel} (h : P c) (base : Nat) : P (readNumber base c).2 :=
  readNumberLoop_induct step err base 64 h

/-! The headers. -/

/-- What `readHeader` does (42_codec.md R172): both words, or none with IOFailure. -/
theorem readHeader_cases {c : Channel} (h : c.err = .clear) :
    (∃ a b, (readHeader c).1 = some (a, b) ∧ (readHeader c).2.err = .clear)
      ∨ ((readHeader c).1 = none ∧ (readHeader c).2.err = .ioFailure) := by
  rcases portRead_cases h with ⟨w, -, hw, he⟩ | ⟨-, hw, he⟩
  · rcases portRead_cases he with ⟨w', -, hw', he'⟩ | ⟨-, hw', he'⟩
    · exact .inl ⟨w, w', by simp [readHeader, he, he', hw, hw'], by simp [readHeader, he, he']⟩
    · exact .inr ⟨by simp [readHeader, he, he'], by simp [readHeader, he, he']⟩
  · exact .inr ⟨by simp [readHeader, he], by simp [readHeader, he]⟩

@[simp] theorem writeHeader_dir (a b : Word) : (writeHeader a b c).dir = c.dir := by
  unfold writeHeader; dsimp only; split <;> simp
@[simp] theorem writeHeader_acc (a b : Word) : (writeHeader a b c).acc = c.acc := by
  unfold writeHeader; dsimp only; split <;> simp
@[simp] theorem writeHeader_cursor (a b : Word) : (writeHeader a b c).cursor = c.cursor := by
  unfold writeHeader; dsimp only; split <;> simp

end Sys2Proof.Machine
end

