-- ==== Sys2Proof/Laws/Memory.lean ====
section
/-! SUPPORT. DMEM: read after write, and that every operation keeps the canonical form. -/
namespace Sys2Proof.Machine

/-- A byte written is read back. -/
@[simp] theorem Memory.read_write_same (m : Memory) (a : Nat) (v : Byte) : (m.write a v).read a = some v := by
  induction m with
  | nil => simp [Memory.write, Memory.read]
  | cons c m ih =>
    obtain ⟨k, b⟩ := c
    unfold Memory.write
    split
    · simp [Memory.read]
    · split
      · simp [Memory.read]
      · rename_i h1 h2; simp [Memory.read, h1, h2, ih]

/-- A write leaves every other address alone. -/
theorem Memory.read_write_other (m : Memory) {a x : Nat} (v : Byte) (h : x ≠ a) :
    (m.write a v).read x = m.read x := by
  induction m with
  | nil => simp [Memory.write, Memory.read, h]
  | cons c m ih =>
    obtain ⟨k, b⟩ := c
    unfold Memory.write
    split
    · rename_i hlt
      simp only [Memory.read, h, if_false]
      split
      · rename_i hx
        have h1 : ¬ x = k := by omega
        have h2 : x < k := by omega
        simp [h1, h2]
      · rfl
    · split
      · rename_i h1 h2; subst h2; simp [Memory.read, h]
      · simp only [Memory.read, ih]

/-- The byte at the address written. -/
@[simp] theorem Memory.byte_write_same (m : Memory) (a : Nat) (v : Byte) : (m.write a v).byte a = v := by
  simp [Memory.byte]

/-- The byte at any other address. -/
theorem Memory.byte_write_other (m : Memory) {a x : Nat} (v : Byte) (h : x ≠ a) :
    (m.write a v).byte x = m.byte x := by
  simp [Memory.byte, Memory.read_write_other m v h]

/-- Every entry after a write is the one written or one listed before. -/
theorem Memory.mem_write {m : Memory} {a : Nat} {v : Byte} {c : Host.Cell} (h : c ∈ m.write a v) :
    c = (a, v) ∨ c ∈ m := by
  induction m with
  | nil => simpa [Memory.write] using h
  | cons d m ih =>
    obtain ⟨k, b⟩ := d
    unfold Memory.write at h
    split at h
    · simpa using h
    · split at h
      · rcases List.mem_cons.1 h with rfl | h
        · exact .inl rfl
        · exact .inr (List.mem_cons_of_mem _ h)
      · rcases List.mem_cons.1 h with rfl | h
        · exact .inr List.mem_cons_self
        · exact (ih h).imp_right (List.mem_cons_of_mem _)

/-- Writing keeps the canonical form. -/
theorem Memory.wf_write {m : Memory} (h : m.wf) (a : Nat) (v : Byte) : (m.write a v).wf := by
  induction m with
  | nil => simp [Memory.write, Memory.wf]
  | cons c m ih =>
    obtain ⟨k, b⟩ := c
    have hp := List.pairwise_cons.1 h
    unfold Memory.write
    split
    · rename_i hlt
      refine List.pairwise_cons.2 ⟨?_, h⟩
      intro d hd
      rcases List.mem_cons.1 hd with rfl | hd
      · exact hlt
      · exact Nat.lt_trans hlt (hp.1 d hd)
    · split
      · rename_i h1 h2; subst h2; exact List.pairwise_cons.2 ⟨hp.1, hp.2⟩
      · rename_i h1 h2
        refine List.pairwise_cons.2 ⟨?_, ih hp.2⟩
        intro d hd
        rcases Memory.mem_write hd with rfl | hd
        · simp only; omega
        · exact hp.1 d hd

/-- Empty DMEM is in canonical form. -/
theorem Memory.wf_nil : Memory.wf [] := List.Pairwise.nil

/-- DMEM at reset is in canonical form. -/
theorem reset_dmem_wf : State.reset.dmem.wf := Memory.wf_nil

/-- The overlapping copy is a sequence of writes: what every write keeps, the copy keeps. -/
theorem copyMatch_induct {P : Memory → Prop} {dst pos : Nat} :
    ∀ {len i : Nat} {m : Memory}, P m →
      (∀ m' k v, P m' → i ≤ k → k < i + len → P (m'.write (dst + k) v)) →
      P (copyMatch dst pos len i m)
  | 0, _, _, h, _ => h
  | len + 1, i, m, h, step => by
    unfold copyMatch
    refine copyMatch_induct (step m i _ h (le_refl i) (by omega)) ?_
    intro m' k v hm h1 h2
    exact step m' k v hm (by omega) (by omega)

/-- The copy keeps the canonical form. -/
theorem wf_copyMatch {dst pos len i : Nat} {m : Memory} (h : m.wf) : (copyMatch dst pos len i m).wf :=
  copyMatch_induct h (fun _ _ v hm _ _ => Memory.wf_write hm _ v)

/-- The copy writes only the bytes of its destination. -/
theorem byte_copyMatch_outside {dst pos len i x : Nat} {m : Memory} (h : x < dst + i ∨ dst + i + len ≤ x) :
    (copyMatch dst pos len i m).byte x = m.byte x := by
  refine copyMatch_induct (P := fun m' => m'.byte x = m.byte x) rfl ?_
  intro m' k v hm h1 h2
  rw [Memory.byte_write_other m' v (by omega), hm]

end Sys2Proof.Machine
end

