-- ==== Sys2Proof/Laws/Codec.lean ====
section
/-! SUPPORT. The window codec: what each of its loops keeps, said once per loop. -/
namespace Sys2Proof.Machine

/-- What every bit written keeps, a literal token keeps (42_codec.md R174). -/
theorem emitLiteral_induct {P : Channel → Prop} (step : ∀ b c, P c → P (writeBit b c)) {c : Channel} (h : P c)
    (b : Byte) : P (emitLiteral b c) := by
  unfold emitLiteral
  refine writeBits_induct step ?_ _ _
  split
  · exact step _ _ h
  · exact step _ _ (step _ _ h)

/-- What every bit written keeps, a match token keeps (42_codec.md R174). -/
theorem emitMatch_induct {P : Channel → Prop} (step : ∀ b c, P c → P (writeBit b c)) {c : Channel} (h : P c)
    (base pos len : Nat) : P (emitMatch base pos len c) :=
  writeNumber_induct step (writeNumber_induct step (step _ _ (step _ _ h)) _ _) _ _

/-- What every bit written keeps, the token loop of CX.COMPRESS keeps (42_codec.md R182). -/
theorem compressLoop_induct {P : Channel → Prop} (step : ∀ b c, P c → P (writeBit b c))
    (p : Params) (m : Memory) (src n window base fuel : Nat) {i : Nat} {c : Channel} (h : P c) :
    P (compressLoop p m src n window base fuel i c).2 := by
  induction fuel generalizing i c with
  | zero => exact h
  | succ fuel ih =>
    unfold compressLoop
    dsimp only
    repeat' split
    · exact ih (emitMatch_induct step h _ _ _)
    · exact ih (emitLiteral_induct step h _)
    · exact h

/-- What every bit read and every `SetErr` keeps, a decoded token keeps (42_codec.md R175). -/
theorem decodeToken_induct {P : Channel → Prop} (step : ∀ c, P c → P (readBit c).2)
    (err : ∀ c e, P c → P (c.setErr e)) {c : Channel} (h : P c) (base : Nat) : P (decodeToken base c).2 := by
  have lit : ∀ (d : Channel) (hi : Byte), P d → P (decodeLiteral hi d).2 := by
    intro d hi hd
    have hq := readBits_induct step hd 7
    unfold decodeLiteral
    generalize readBits 7 d = q at hq ⊢
    dsimp only
    split <;> exact hq
  have num : ∀ d : Channel, P d → P (decodeMatch base d).2 := by
    intro d hd
    have hq := readNumber_induct step err hd base
    unfold decodeMatch
    generalize readNumber base d = q at hq ⊢
    have ht := readNumber_induct step err hq base
    dsimp only
    generalize readNumber base q.2 = t at ht ⊢
    split <;> exact ht
  have h0 := step _ h
  unfold decodeToken
  generalize readBit c = b0 at h0 ⊢
  have h1 := step _ h0
  dsimp only
  generalize readBit b0.2 = b1 at h1 ⊢
  repeat' split
  · exact lit _ _ h0
  · exact h1
  · exact lit _ _ h1
  · exact num _ h1

/-- What every bit read and every `SetErr` keeps of the session, the token loop of CX.DECOMPRESS keeps (42_codec.md R183). -/
theorem decompressLoop_induct {P : Channel → Prop} (step : ∀ c, P c → P (readBit c).2)
    (err : ∀ c e, P c → P (c.setErr e)) (dst nh window base fuel : Nat) {d : Decoded} (h : P d.chan) :
    P (decompressLoop dst nh window base fuel d).chan := by
  induction fuel generalizing d with
  | zero => exact h
  | succ fuel ih =>
    have ht := decodeToken_induct step err h base
    unfold decompressLoop
    split
    · dsimp only
      split
      · exact ht
      · exact ih ht
      · split
        · exact ih ht
        · exact err _ _ ht
    · exact h

/-- A kept match is valid (42_codec.md R176). -/
theorem validMatch_iff (nh window i pos len : Nat) :
    validMatch nh window i pos len = true
      ↔ 0 < pos ∧ pos < window ∧ 0 < len ∧ pos ≤ i ∧ len ≤ nh - i := by
  simp [validMatch, and_assoc]

/-- The token loop of CX.DECOMPRESS keeps the output cursor at or below the declared count, and moves it only forward. -/
theorem decompressLoop_cursor (dst nh window base fuel : Nat) {d : Decoded} (h : d.i ≤ nh) :
    d.i ≤ (decompressLoop dst nh window base fuel d).i
      ∧ (decompressLoop dst nh window base fuel d).i ≤ nh := by
  induction fuel generalizing d with
  | zero => exact ⟨le_refl _, h⟩
  | succ fuel ih =>
    unfold decompressLoop
    split
    · rename_i hc
      dsimp only
      split
      · exact ⟨le_refl _, h⟩
      · rename_i v ht
        have := ih (d := { i := d.i + 1, mem := d.mem.write (dst + d.i) v, chan := (decodeToken base d.chan).2 })
          (by simp only; omega)
        simp only at this ⊢
        omega
      · split
        · rename_i pos len ht hv
          have hv' := (validMatch_iff _ _ _ _ _).1 hv
          have := ih (d := { i := d.i + len.toNat, mem := copyMatch dst pos.toNat len.toNat d.i d.mem,
                             chan := (decodeToken base d.chan).2 }) (by simp only; omega)
          simp only at this ⊢
          omega
        · exact ⟨le_refl _, h⟩
    · exact ⟨le_refl _, h⟩

end Sys2Proof.Machine
end

