-- ==== Sys2Proof/Laws/State.lean ====
section
/-! SUPPORT. One lemma per field per named update of the state, so that no proof unfolds a record update. -/
namespace Sys2Proof.Machine

variable (s : State)

@[simp] theorem State.setFhu_param (h : Fhu) : (s.setFhu h).param = s.param := rfl
@[simp] theorem State.setFhu_fhu (h : Fhu) : (s.setFhu h).fhu = h := rfl
@[simp] theorem State.setFhu_chan (h : Fhu) : (s.setFhu h).chan = s.chan := rfl
@[simp] theorem State.setFhu_arg0 (h : Fhu) : (s.setFhu h).arg0 = s.arg0 := rfl
@[simp] theorem State.setFhu_arg1 (h : Fhu) : (s.setFhu h).arg1 = s.arg1 := rfl
@[simp] theorem State.setFhu_arg2 (h : Fhu) : (s.setFhu h).arg2 = s.arg2 := rfl
@[simp] theorem State.setFhu_res0 (h : Fhu) : (s.setFhu h).res0 = s.res0 := rfl
@[simp] theorem State.setFhu_res1 (h : Fhu) : (s.setFhu h).res1 = s.res1 := rfl
@[simp] theorem State.setFhu_res2 (h : Fhu) : (s.setFhu h).res2 = s.res2 := rfl
@[simp] theorem State.setFhu_faultCause (h : Fhu) : (s.setFhu h).faultCause = s.faultCause := rfl
@[simp] theorem State.setFhu_faultWord (h : Fhu) : (s.setFhu h).faultWord = s.faultWord := rfl
@[simp] theorem State.setFhu_busy (h : Fhu) : (s.setFhu h).busy = s.busy := rfl
@[simp] theorem State.setFhu_cmdWord (h : Fhu) : (s.setFhu h).cmdWord = s.cmdWord := rfl
@[simp] theorem State.setFhu_dmem (h : Fhu) : (s.setFhu h).dmem = s.dmem := rfl
@[simp] theorem State.setFhu_pending (h : Fhu) : (s.setFhu h).pending = s.pending := rfl
@[simp] theorem State.setFhu_hostReads (h : Fhu) : (s.setFhu h).hostReads = s.hostReads := rfl

@[simp] theorem State.setChan_param (c : Channel) : (s.setChan c).param = s.param := rfl
@[simp] theorem State.setChan_fhu (c : Channel) : (s.setChan c).fhu = s.fhu := rfl
@[simp] theorem State.setChan_chan (c : Channel) : (s.setChan c).chan = c := rfl
@[simp] theorem State.setChan_arg0 (c : Channel) : (s.setChan c).arg0 = s.arg0 := rfl
@[simp] theorem State.setChan_arg1 (c : Channel) : (s.setChan c).arg1 = s.arg1 := rfl
@[simp] theorem State.setChan_arg2 (c : Channel) : (s.setChan c).arg2 = s.arg2 := rfl
@[simp] theorem State.setChan_res0 (c : Channel) : (s.setChan c).res0 = s.res0 := rfl
@[simp] theorem State.setChan_res1 (c : Channel) : (s.setChan c).res1 = s.res1 := rfl
@[simp] theorem State.setChan_res2 (c : Channel) : (s.setChan c).res2 = s.res2 := rfl
@[simp] theorem State.setChan_faultCause (c : Channel) : (s.setChan c).faultCause = s.faultCause := rfl
@[simp] theorem State.setChan_faultWord (c : Channel) : (s.setChan c).faultWord = s.faultWord := rfl
@[simp] theorem State.setChan_busy (c : Channel) : (s.setChan c).busy = s.busy := rfl
@[simp] theorem State.setChan_cmdWord (c : Channel) : (s.setChan c).cmdWord = s.cmdWord := rfl
@[simp] theorem State.setChan_dmem (c : Channel) : (s.setChan c).dmem = s.dmem := rfl
@[simp] theorem State.setChan_pending (c : Channel) : (s.setChan c).pending = s.pending := rfl
@[simp] theorem State.setChan_hostReads (c : Channel) : (s.setChan c).hostReads = s.hostReads := rfl

@[simp] theorem State.setDmem_param (m : Memory) : (s.setDmem m).param = s.param := rfl
@[simp] theorem State.setDmem_fhu (m : Memory) : (s.setDmem m).fhu = s.fhu := rfl
@[simp] theorem State.setDmem_chan (m : Memory) : (s.setDmem m).chan = s.chan := rfl
@[simp] theorem State.setDmem_arg0 (m : Memory) : (s.setDmem m).arg0 = s.arg0 := rfl
@[simp] theorem State.setDmem_arg1 (m : Memory) : (s.setDmem m).arg1 = s.arg1 := rfl
@[simp] theorem State.setDmem_arg2 (m : Memory) : (s.setDmem m).arg2 = s.arg2 := rfl
@[simp] theorem State.setDmem_res0 (m : Memory) : (s.setDmem m).res0 = s.res0 := rfl
@[simp] theorem State.setDmem_res1 (m : Memory) : (s.setDmem m).res1 = s.res1 := rfl
@[simp] theorem State.setDmem_res2 (m : Memory) : (s.setDmem m).res2 = s.res2 := rfl
@[simp] theorem State.setDmem_faultCause (m : Memory) : (s.setDmem m).faultCause = s.faultCause := rfl
@[simp] theorem State.setDmem_faultWord (m : Memory) : (s.setDmem m).faultWord = s.faultWord := rfl
@[simp] theorem State.setDmem_busy (m : Memory) : (s.setDmem m).busy = s.busy := rfl
@[simp] theorem State.setDmem_cmdWord (m : Memory) : (s.setDmem m).cmdWord = s.cmdWord := rfl
@[simp] theorem State.setDmem_dmem (m : Memory) : (s.setDmem m).dmem = m := rfl
@[simp] theorem State.setDmem_pending (m : Memory) : (s.setDmem m).pending = s.pending := rfl
@[simp] theorem State.setDmem_hostReads (m : Memory) : (s.setDmem m).hostReads = s.hostReads := rfl

@[simp] theorem State.setRes0_param (v : Word) : (s.setRes0 v).param = s.param := rfl
@[simp] theorem State.setRes0_fhu (v : Word) : (s.setRes0 v).fhu = s.fhu := rfl
@[simp] theorem State.setRes0_chan (v : Word) : (s.setRes0 v).chan = s.chan := rfl
@[simp] theorem State.setRes0_arg0 (v : Word) : (s.setRes0 v).arg0 = s.arg0 := rfl
@[simp] theorem State.setRes0_arg1 (v : Word) : (s.setRes0 v).arg1 = s.arg1 := rfl
@[simp] theorem State.setRes0_arg2 (v : Word) : (s.setRes0 v).arg2 = s.arg2 := rfl
@[simp] theorem State.setRes0_res0 (v : Word) : (s.setRes0 v).res0 = v := rfl
@[simp] theorem State.setRes0_res1 (v : Word) : (s.setRes0 v).res1 = s.res1 := rfl
@[simp] theorem State.setRes0_res2 (v : Word) : (s.setRes0 v).res2 = s.res2 := rfl
@[simp] theorem State.setRes0_faultCause (v : Word) : (s.setRes0 v).faultCause = s.faultCause := rfl
@[simp] theorem State.setRes0_faultWord (v : Word) : (s.setRes0 v).faultWord = s.faultWord := rfl
@[simp] theorem State.setRes0_busy (v : Word) : (s.setRes0 v).busy = s.busy := rfl
@[simp] theorem State.setRes0_cmdWord (v : Word) : (s.setRes0 v).cmdWord = s.cmdWord := rfl
@[simp] theorem State.setRes0_dmem (v : Word) : (s.setRes0 v).dmem = s.dmem := rfl
@[simp] theorem State.setRes0_pending (v : Word) : (s.setRes0 v).pending = s.pending := rfl
@[simp] theorem State.setRes0_hostReads (v : Word) : (s.setRes0 v).hostReads = s.hostReads := rfl

@[simp] theorem State.setRes1_param (v : Word) : (s.setRes1 v).param = s.param := rfl
@[simp] theorem State.setRes1_fhu (v : Word) : (s.setRes1 v).fhu = s.fhu := rfl
@[simp] theorem State.setRes1_chan (v : Word) : (s.setRes1 v).chan = s.chan := rfl
@[simp] theorem State.setRes1_arg0 (v : Word) : (s.setRes1 v).arg0 = s.arg0 := rfl
@[simp] theorem State.setRes1_arg1 (v : Word) : (s.setRes1 v).arg1 = s.arg1 := rfl
@[simp] theorem State.setRes1_arg2 (v : Word) : (s.setRes1 v).arg2 = s.arg2 := rfl
@[simp] theorem State.setRes1_res0 (v : Word) : (s.setRes1 v).res0 = s.res0 := rfl
@[simp] theorem State.setRes1_res1 (v : Word) : (s.setRes1 v).res1 = v := rfl
@[simp] theorem State.setRes1_res2 (v : Word) : (s.setRes1 v).res2 = s.res2 := rfl
@[simp] theorem State.setRes1_faultCause (v : Word) : (s.setRes1 v).faultCause = s.faultCause := rfl
@[simp] theorem State.setRes1_faultWord (v : Word) : (s.setRes1 v).faultWord = s.faultWord := rfl
@[simp] theorem State.setRes1_busy (v : Word) : (s.setRes1 v).busy = s.busy := rfl
@[simp] theorem State.setRes1_cmdWord (v : Word) : (s.setRes1 v).cmdWord = s.cmdWord := rfl
@[simp] theorem State.setRes1_dmem (v : Word) : (s.setRes1 v).dmem = s.dmem := rfl
@[simp] theorem State.setRes1_pending (v : Word) : (s.setRes1 v).pending = s.pending := rfl
@[simp] theorem State.setRes1_hostReads (v : Word) : (s.setRes1 v).hostReads = s.hostReads := rfl

@[simp] theorem State.setRes2_param (v : Word) : (s.setRes2 v).param = s.param := rfl
@[simp] theorem State.setRes2_fhu (v : Word) : (s.setRes2 v).fhu = s.fhu := rfl
@[simp] theorem State.setRes2_chan (v : Word) : (s.setRes2 v).chan = s.chan := rfl
@[simp] theorem State.setRes2_arg0 (v : Word) : (s.setRes2 v).arg0 = s.arg0 := rfl
@[simp] theorem State.setRes2_arg1 (v : Word) : (s.setRes2 v).arg1 = s.arg1 := rfl
@[simp] theorem State.setRes2_arg2 (v : Word) : (s.setRes2 v).arg2 = s.arg2 := rfl
@[simp] theorem State.setRes2_res0 (v : Word) : (s.setRes2 v).res0 = s.res0 := rfl
@[simp] theorem State.setRes2_res1 (v : Word) : (s.setRes2 v).res1 = s.res1 := rfl
@[simp] theorem State.setRes2_res2 (v : Word) : (s.setRes2 v).res2 = v := rfl
@[simp] theorem State.setRes2_faultCause (v : Word) : (s.setRes2 v).faultCause = s.faultCause := rfl
@[simp] theorem State.setRes2_faultWord (v : Word) : (s.setRes2 v).faultWord = s.faultWord := rfl
@[simp] theorem State.setRes2_busy (v : Word) : (s.setRes2 v).busy = s.busy := rfl
@[simp] theorem State.setRes2_cmdWord (v : Word) : (s.setRes2 v).cmdWord = s.cmdWord := rfl
@[simp] theorem State.setRes2_dmem (v : Word) : (s.setRes2 v).dmem = s.dmem := rfl
@[simp] theorem State.setRes2_pending (v : Word) : (s.setRes2 v).pending = s.pending := rfl
@[simp] theorem State.setRes2_hostReads (v : Word) : (s.setRes2 v).hostReads = s.hostReads := rfl

@[simp] theorem State.finish_param : s.finish.param = s.param := rfl
@[simp] theorem State.finish_fhu : s.finish.fhu = s.fhu := rfl
@[simp] theorem State.finish_chan : s.finish.chan = s.chan := rfl
@[simp] theorem State.finish_arg0 : s.finish.arg0 = s.arg0 := rfl
@[simp] theorem State.finish_arg1 : s.finish.arg1 = s.arg1 := rfl
@[simp] theorem State.finish_arg2 : s.finish.arg2 = s.arg2 := rfl
@[simp] theorem State.finish_res0 : s.finish.res0 = s.res0 := rfl
@[simp] theorem State.finish_res1 : s.finish.res1 = s.res1 := rfl
@[simp] theorem State.finish_res2 : s.finish.res2 = s.res2 := rfl
@[simp] theorem State.finish_faultCause : s.finish.faultCause = s.faultCause := rfl
@[simp] theorem State.finish_faultWord : s.finish.faultWord = s.faultWord := rfl
@[simp] theorem State.finish_busy : s.finish.busy = false := rfl
@[simp] theorem State.finish_cmdWord : s.finish.cmdWord = s.cmdWord := rfl
@[simp] theorem State.finish_dmem : s.finish.dmem = s.dmem := rfl
@[simp] theorem State.finish_pending : s.finish.pending = s.pending := rfl
@[simp] theorem State.finish_hostReads : s.finish.hostReads = s.hostReads := rfl

@[simp] theorem State.begin_param (w : CmdWord) : (s.begin w).param = s.param := rfl
@[simp] theorem State.begin_fhu (w : CmdWord) : (s.begin w).fhu = s.fhu := rfl
@[simp] theorem State.begin_chan (w : CmdWord) : (s.begin w).chan = s.chan := rfl
@[simp] theorem State.begin_arg0 (w : CmdWord) : (s.begin w).arg0 = s.arg0 := rfl
@[simp] theorem State.begin_arg1 (w : CmdWord) : (s.begin w).arg1 = s.arg1 := rfl
@[simp] theorem State.begin_arg2 (w : CmdWord) : (s.begin w).arg2 = s.arg2 := rfl
@[simp] theorem State.begin_res0 (w : CmdWord) : (s.begin w).res0 = s.res0 := rfl
@[simp] theorem State.begin_res1 (w : CmdWord) : (s.begin w).res1 = s.res1 := rfl
@[simp] theorem State.begin_res2 (w : CmdWord) : (s.begin w).res2 = s.res2 := rfl
@[simp] theorem State.begin_faultCause (w : CmdWord) : (s.begin w).faultCause = s.faultCause := rfl
@[simp] theorem State.begin_faultWord (w : CmdWord) : (s.begin w).faultWord = s.faultWord := rfl
@[simp] theorem State.begin_busy (w : CmdWord) : (s.begin w).busy = true := rfl
@[simp] theorem State.begin_cmdWord (w : CmdWord) : (s.begin w).cmdWord = w := rfl
@[simp] theorem State.begin_dmem (w : CmdWord) : (s.begin w).dmem = s.dmem := rfl
@[simp] theorem State.begin_pending (w : CmdWord) : (s.begin w).pending = s.pending := rfl
@[simp] theorem State.begin_hostReads (w : CmdWord) : (s.begin w).hostReads = s.hostReads := rfl

/-! `recordFault` and `raiseFault` touch FAULT (and BUSY) alone. -/

@[simp] theorem State.recordFault_param (c : Cause) (w : CmdWord) : (s.recordFault c w).param = s.param := by
  unfold State.recordFault; split <;> rfl
@[simp] theorem State.recordFault_fhu (c : Cause) (w : CmdWord) : (s.recordFault c w).fhu = s.fhu := by
  unfold State.recordFault; split <;> rfl
@[simp] theorem State.recordFault_chan (c : Cause) (w : CmdWord) : (s.recordFault c w).chan = s.chan := by
  unfold State.recordFault; split <;> rfl
@[simp] theorem State.recordFault_arg0 (c : Cause) (w : CmdWord) : (s.recordFault c w).arg0 = s.arg0 := by
  unfold State.recordFault; split <;> rfl
@[simp] theorem State.recordFault_arg1 (c : Cause) (w : CmdWord) : (s.recordFault c w).arg1 = s.arg1 := by
  unfold State.recordFault; split <;> rfl
@[simp] theorem State.recordFault_arg2 (c : Cause) (w : CmdWord) : (s.recordFault c w).arg2 = s.arg2 := by
  unfold State.recordFault; split <;> rfl
@[simp] theorem State.recordFault_res0 (c : Cause) (w : CmdWord) : (s.recordFault c w).res0 = s.res0 := by
  unfold State.recordFault; split <;> rfl
@[simp] theorem State.recordFault_res1 (c : Cause) (w : CmdWord) : (s.recordFault c w).res1 = s.res1 := by
  unfold State.recordFault; split <;> rfl
@[simp] theorem State.recordFault_res2 (c : Cause) (w : CmdWord) : (s.recordFault c w).res2 = s.res2 := by
  unfold State.recordFault; split <;> rfl
@[simp] theorem State.recordFault_busy (c : Cause) (w : CmdWord) : (s.recordFault c w).busy = s.busy := by
  unfold State.recordFault; split <;> rfl
@[simp] theorem State.recordFault_cmdWord (c : Cause) (w : CmdWord) : (s.recordFault c w).cmdWord = s.cmdWord := by
  unfold State.recordFault; split <;> rfl
@[simp] theorem State.recordFault_dmem (c : Cause) (w : CmdWord) : (s.recordFault c w).dmem = s.dmem := by
  unfold State.recordFault; split <;> rfl
@[simp] theorem State.recordFault_pending (c : Cause) (w : CmdWord) : (s.recordFault c w).pending = s.pending := by
  unfold State.recordFault; split <;> rfl
@[simp] theorem State.recordFault_hostReads (c : Cause) (w : CmdWord) : (s.recordFault c w).hostReads = s.hostReads := by
  unfold State.recordFault; split <;> rfl

@[simp] theorem State.raiseFault_param (c : Cause) (w : CmdWord) : (s.raiseFault c w).param = s.param := by simp [State.raiseFault]
@[simp] theorem State.raiseFault_fhu (c : Cause) (w : CmdWord) : (s.raiseFault c w).fhu = s.fhu := by simp [State.raiseFault]
@[simp] theorem State.raiseFault_chan (c : Cause) (w : CmdWord) : (s.raiseFault c w).chan = s.chan := by simp [State.raiseFault]
@[simp] theorem State.raiseFault_arg0 (c : Cause) (w : CmdWord) : (s.raiseFault c w).arg0 = s.arg0 := by simp [State.raiseFault]
@[simp] theorem State.raiseFault_arg1 (c : Cause) (w : CmdWord) : (s.raiseFault c w).arg1 = s.arg1 := by simp [State.raiseFault]
@[simp] theorem State.raiseFault_arg2 (c : Cause) (w : CmdWord) : (s.raiseFault c w).arg2 = s.arg2 := by simp [State.raiseFault]
@[simp] theorem State.raiseFault_res0 (c : Cause) (w : CmdWord) : (s.raiseFault c w).res0 = s.res0 := by simp [State.raiseFault]
@[simp] theorem State.raiseFault_res1 (c : Cause) (w : CmdWord) : (s.raiseFault c w).res1 = s.res1 := by simp [State.raiseFault]
@[simp] theorem State.raiseFault_res2 (c : Cause) (w : CmdWord) : (s.raiseFault c w).res2 = s.res2 := by simp [State.raiseFault]
@[simp] theorem State.raiseFault_busy (c : Cause) (w : CmdWord) : (s.raiseFault c w).busy = false := by simp [State.raiseFault]
@[simp] theorem State.raiseFault_cmdWord (c : Cause) (w : CmdWord) : (s.raiseFault c w).cmdWord = s.cmdWord := by simp [State.raiseFault]
@[simp] theorem State.raiseFault_dmem (c : Cause) (w : CmdWord) : (s.raiseFault c w).dmem = s.dmem := by simp [State.raiseFault]
@[simp] theorem State.raiseFault_pending (c : Cause) (w : CmdWord) : (s.raiseFault c w).pending = s.pending := by simp [State.raiseFault]
@[simp] theorem State.raiseFault_hostReads (c : Cause) (w : CmdWord) : (s.raiseFault c w).hostReads = s.hostReads := by simp [State.raiseFault]

/-- FAULT records the first fault. -/
theorem State.recordFault_of_clear {s : State} (h : s.faultCause = .none) (c : Cause) (w : CmdWord) :
    s.recordFault c w = { s with faultCause := c, faultWord := w } := by simp [State.recordFault, h]

/-- FAULT keeps a fault it holds. -/
theorem State.recordFault_of_set {s : State} (h : s.faultCause ≠ .none) (c : Cause) (w : CmdWord) :
    s.recordFault c w = s := by simp [State.recordFault, h]

/-- A header that was not read changes nothing. -/
@[simp] theorem State.setHeader_none : s.setHeader none = s := rfl

@[simp] theorem State.setHeader_some (q : Word × Word) :
    s.setHeader (some q) = (s.setRes1 q.1).setRes2 q.2 := rfl

@[simp] theorem State.setHeader_param (h : Option (Word × Word)) : (s.setHeader h).param = s.param := by
  cases h <;> rfl
@[simp] theorem State.setHeader_fhu (h : Option (Word × Word)) : (s.setHeader h).fhu = s.fhu := by
  cases h <;> rfl
@[simp] theorem State.setHeader_chan (h : Option (Word × Word)) : (s.setHeader h).chan = s.chan := by
  cases h <;> rfl
@[simp] theorem State.setHeader_arg0 (h : Option (Word × Word)) : (s.setHeader h).arg0 = s.arg0 := by
  cases h <;> rfl
@[simp] theorem State.setHeader_arg1 (h : Option (Word × Word)) : (s.setHeader h).arg1 = s.arg1 := by
  cases h <;> rfl
@[simp] theorem State.setHeader_arg2 (h : Option (Word × Word)) : (s.setHeader h).arg2 = s.arg2 := by
  cases h <;> rfl
@[simp] theorem State.setHeader_res0 (h : Option (Word × Word)) : (s.setHeader h).res0 = s.res0 := by
  cases h <;> rfl
@[simp] theorem State.setHeader_faultCause (h : Option (Word × Word)) : (s.setHeader h).faultCause = s.faultCause := by
  cases h <;> rfl
@[simp] theorem State.setHeader_faultWord (h : Option (Word × Word)) : (s.setHeader h).faultWord = s.faultWord := by
  cases h <;> rfl
@[simp] theorem State.setHeader_busy (h : Option (Word × Word)) : (s.setHeader h).busy = s.busy := by
  cases h <;> rfl
@[simp] theorem State.setHeader_cmdWord (h : Option (Word × Word)) : (s.setHeader h).cmdWord = s.cmdWord := by
  cases h <;> rfl
@[simp] theorem State.setHeader_dmem (h : Option (Word × Word)) : (s.setHeader h).dmem = s.dmem := by
  cases h <;> rfl
@[simp] theorem State.setHeader_pending (h : Option (Word × Word)) : (s.setHeader h).pending = s.pending := by
  cases h <;> rfl
@[simp] theorem State.setHeader_hostReads (h : Option (Word × Word)) : (s.setHeader h).hostReads = s.hostReads := by
  cases h <;> rfl

end Sys2Proof.Machine
end

