-- ==== Sys2Proof/Laws/Exec.lean ====
section
/-! SUPPORT. How a command ends: the shapes of a meaning's answer, and the debug check. -/
namespace Sys2Proof.Machine

variable (s : State)

/-- A raised fault is a next state. -/
theorem raise_eq (c : Cause) (i : Instr) : raise c i s = .next (s.raiseFault c (encode i)) := rfl

/-- A normal return is a next state. -/
theorem complete_eq : complete s = .next s.finish := rfl

/-- An answered next state of a normal return is the finished state. -/
theorem complete_next {s t : State} (h : complete s = .next t) : t = s.finish := by
  unfold complete at h; injection h with h; exact h.symm

/-- An answered next state of a raised fault is the state with the fault recorded and the command ended. -/
theorem raise_next {s t : State} {c : Cause} {i : Instr} (h : raise c i s = .next t) :
    t = s.raiseFault c (encode i) := by
  unfold raise at h; injection h with h; exact h.symm

/-- What the debug check can do (60_exceptions.md R232): nothing, or record InvariantViolation with the effects kept. -/
theorem debugCheck_cases (i : Instr) :
    debugCheck i s = s
      ∨ (s.param.debugVerify = true ∧ s.fhu.verify s.param = false
          ∧ debugCheck i s = s.recordFault .invariantViolation (encode i)) := by
  unfold debugCheck
  split
  · rename_i h; exact .inr ⟨h.1, h.2, rfl⟩
  · exact .inl rfl

@[simp] theorem debugCheck_param (i : Instr) : (debugCheck i s).param = s.param := by
  unfold debugCheck; split <;> simp
@[simp] theorem debugCheck_fhu (i : Instr) : (debugCheck i s).fhu = s.fhu := by
  unfold debugCheck; split <;> simp
@[simp] theorem debugCheck_chan (i : Instr) : (debugCheck i s).chan = s.chan := by
  unfold debugCheck; split <;> simp
@[simp] theorem debugCheck_arg0 (i : Instr) : (debugCheck i s).arg0 = s.arg0 := by
  unfold debugCheck; split <;> simp
@[simp] theorem debugCheck_arg1 (i : Instr) : (debugCheck i s).arg1 = s.arg1 := by
  unfold debugCheck; split <;> simp
@[simp] theorem debugCheck_arg2 (i : Instr) : (debugCheck i s).arg2 = s.arg2 := by
  unfold debugCheck; split <;> simp
@[simp] theorem debugCheck_res0 (i : Instr) : (debugCheck i s).res0 = s.res0 := by
  unfold debugCheck; split <;> simp
@[simp] theorem debugCheck_res1 (i : Instr) : (debugCheck i s).res1 = s.res1 := by
  unfold debugCheck; split <;> simp
@[simp] theorem debugCheck_res2 (i : Instr) : (debugCheck i s).res2 = s.res2 := by
  unfold debugCheck; split <;> simp
@[simp] theorem debugCheck_busy (i : Instr) : (debugCheck i s).busy = s.busy := by
  unfold debugCheck; split <;> simp
@[simp] theorem debugCheck_cmdWord (i : Instr) : (debugCheck i s).cmdWord = s.cmdWord := by
  unfold debugCheck; split <;> simp
@[simp] theorem debugCheck_dmem (i : Instr) : (debugCheck i s).dmem = s.dmem := by
  unfold debugCheck; split <;> simp
@[simp] theorem debugCheck_pending (i : Instr) : (debugCheck i s).pending = s.pending := by
  unfold debugCheck; split <;> simp
@[simp] theorem debugCheck_hostReads (i : Instr) : (debugCheck i s).hostReads = s.hostReads := by
  unfold debugCheck; split <;> simp

/-- The decoder gives a command back from its CMD value. -/
theorem decode_cmdValue (i : Instr) : decode (cmdValue i) = .ok i := by cases i <;> rfl

/-- The next state of a command word that names no command. -/
theorem runCommand_of_error {v : Word} {e : DecodeError} (h : decode v = .error e) :
    runCommand v s = .next (s.raiseFault (decodeCause e) (v.setWidth 32)) := by simp [runCommand, h]

/-- A decoded command runs. -/
theorem runCommand_of_ok {v : Word} {i : Instr} (h : decode v = .ok i) : runCommand v s = exec i s := by
  simp [runCommand, h]

end Sys2Proof.Machine
end

