-- ==== Sys2Proof/Laws/Heap.lean ====
section
/-! SUPPORT. The frequency heap: its arrays under each micro-operation, and one induction principle per sift loop. -/
namespace Sys2Proof.Machine

variable (h : Fhu)

/-! The arrays under one write. -/

@[simp] theorem Fhu.setFreq_freqAt (k j : Nat) (v : Word) :
    (h.setFreq k v).freqAt j = if k = j ∧ j < h.freq.length then v else h.freqAt j := by
  simp only [Fhu.setFreq, Fhu.freqAt, List.getD_eq_getElem?_getD, List.getElem?_set]
  by_cases hk : k = j
  · by_cases hl : j < h.freq.length
    · simp [hk, hl]
    · simp [hk, hl]
  · simp [hk]

@[simp] theorem Fhu.setSym_symAt (k j : Nat) (v : Entry) :
    (h.setSym k v).symAt j = if k = j ∧ j < h.sym.length then v else h.symAt j := by
  simp only [Fhu.setSym, Fhu.symAt, List.getD_eq_getElem?_getD, List.getElem?_set]
  by_cases hk : k = j
  · by_cases hl : j < h.sym.length
    · simp [hk, hl]
    · simp [hk, hl]
  · simp [hk]

@[simp] theorem Fhu.setTable_tableAt (k j : Nat) (v : Entry) :
    (h.setTable k v).tableAt j = if k = j ∧ j < h.table.length then v else h.tableAt j := by
  simp only [Fhu.setTable, Fhu.tableAt, List.getD_eq_getElem?_getD, List.getElem?_set]
  by_cases hk : k = j
  · by_cases hl : j < h.table.length
    · simp [hk, hl]
    · simp [hk, hl]
  · simp [hk]

@[simp] theorem Fhu.setFreq_symAt (k j : Nat) (v : Word) : (h.setFreq k v).symAt j = h.symAt j := rfl
@[simp] theorem Fhu.setFreq_tableAt (k j : Nat) (v : Word) : (h.setFreq k v).tableAt j = h.tableAt j := rfl
@[simp] theorem Fhu.setFreq_nc (k : Nat) (v : Word) : (h.setFreq k v).nc = h.nc := rfl
@[simp] theorem Fhu.setFreq_length (k : Nat) (v : Word) : (h.setFreq k v).freq.length = h.freq.length := by
  simp [Fhu.setFreq]
@[simp] theorem Fhu.setFreq_sym (k : Nat) (v : Word) : (h.setFreq k v).sym = h.sym := rfl
@[simp] theorem Fhu.setFreq_table (k : Nat) (v : Word) : (h.setFreq k v).table = h.table := rfl
@[simp] theorem Fhu.setSym_freqAt (k j : Nat) (v : Entry) : (h.setSym k v).freqAt j = h.freqAt j := rfl
@[simp] theorem Fhu.setSym_tableAt (k j : Nat) (v : Entry) : (h.setSym k v).tableAt j = h.tableAt j := rfl
@[simp] theorem Fhu.setSym_nc (k : Nat) (v : Entry) : (h.setSym k v).nc = h.nc := rfl
@[simp] theorem Fhu.setSym_length (k : Nat) (v : Entry) : (h.setSym k v).sym.length = h.sym.length := by
  simp [Fhu.setSym]
@[simp] theorem Fhu.setSym_freq (k : Nat) (v : Entry) : (h.setSym k v).freq = h.freq := rfl
@[simp] theorem Fhu.setSym_table (k : Nat) (v : Entry) : (h.setSym k v).table = h.table := rfl
@[simp] theorem Fhu.setTable_freqAt (k j : Nat) (v : Entry) : (h.setTable k v).freqAt j = h.freqAt j := rfl
@[simp] theorem Fhu.setTable_symAt (k j : Nat) (v : Entry) : (h.setTable k v).symAt j = h.symAt j := rfl
@[simp] theorem Fhu.setTable_nc (k : Nat) (v : Entry) : (h.setTable k v).nc = h.nc := rfl
@[simp] theorem Fhu.setTable_length (k : Nat) (v : Entry) : (h.setTable k v).table.length = h.table.length := by
  simp [Fhu.setTable]
@[simp] theorem Fhu.setTable_freq (k : Nat) (v : Entry) : (h.setTable k v).freq = h.freq := rfl
@[simp] theorem Fhu.setTable_sym (k : Nat) (v : Entry) : (h.setTable k v).sym = h.sym := rfl
@[simp] theorem Fhu.incNc_freqAt (j : Nat) : h.incNc.freqAt j = h.freqAt j := rfl
@[simp] theorem Fhu.incNc_symAt (j : Nat) : h.incNc.symAt j = h.symAt j := rfl
@[simp] theorem Fhu.incNc_tableAt (j : Nat) : h.incNc.tableAt j = h.tableAt j := rfl
@[simp] theorem Fhu.incNc_nc : h.incNc.nc = h.nc + 1#32 := rfl
@[simp] theorem Fhu.incNc_freq : h.incNc.freq = h.freq := rfl
@[simp] theorem Fhu.incNc_sym : h.incNc.sym = h.sym := rfl
@[simp] theorem Fhu.incNc_table : h.incNc.table = h.table := rfl

/-! `swap` (40_heap.md R101). -/

@[simp] theorem Fhu.swapTable_freq (a b : Nat) : (h.swapTable a b).freq = h.freq := by
  unfold Fhu.swapTable; dsimp only; repeat' split
  all_goals rfl
@[simp] theorem Fhu.swapTable_sym (a b : Nat) : (h.swapTable a b).sym = h.sym := by
  unfold Fhu.swapTable; dsimp only; repeat' split
  all_goals rfl
@[simp] theorem Fhu.swapTable_nc (a b : Nat) : (h.swapTable a b).nc = h.nc := by
  unfold Fhu.swapTable; dsimp only; repeat' split
  all_goals rfl
@[simp] theorem Fhu.swapTable_length (a b : Nat) : (h.swapTable a b).table.length = h.table.length := by
  unfold Fhu.swapTable; dsimp only; repeat' split
  all_goals simp

@[simp] theorem Fhu.swap_nc (a b : Nat) : (h.swap a b).nc = h.nc := by simp [Fhu.swap]
@[simp] theorem Fhu.swap_table (a b : Nat) : (h.swap a b).table = (h.swapTable a b).table := rfl
@[simp] theorem Fhu.swap_freq_length (a b : Nat) : (h.swap a b).freq.length = h.freq.length := by simp [Fhu.swap]
@[simp] theorem Fhu.swap_sym_length (a b : Nat) : (h.swap a b).sym.length = h.sym.length := by simp [Fhu.swap]
@[simp] theorem Fhu.swap_table_length (a b : Nat) : (h.swap a b).table.length = h.table.length := by
  simp [Fhu.swap]

/-- The frequencies after a swap of two indices of the array. -/
theorem Fhu.swap_freqAt {h : Fhu} {a b : Nat} (ha : a < h.freq.length) (hb : b < h.freq.length) (j : Nat) :
    (h.swap a b).freqAt j = if j = a then h.freqAt b else if j = b then h.freqAt a else h.freqAt j := by
  simp only [Fhu.swap, Fhu.freqAt, List.getD_eq_getElem?_getD, List.getElem?_set, List.length_set]
  by_cases h1 : j = a
  · subst h1
    by_cases h2 : b = j
    · subst h2; simp [ha]
    · simp [h2, ha, hb]
  · by_cases h2 : j = b
    · subst h2; simp [h1, hb, ha]
    · simp [h1, h2, Ne.symm h1, Ne.symm h2]

/-- The symbols after a swap of two indices of the array. -/
theorem Fhu.swap_symAt {h : Fhu} {a b : Nat} (ha : a < h.sym.length) (hb : b < h.sym.length) (j : Nat) :
    (h.swap a b).symAt j = if j = a then h.symAt b else if j = b then h.symAt a else h.symAt j := by
  simp only [Fhu.swap, Fhu.symAt, List.getD_eq_getElem?_getD, List.getElem?_set, List.length_set]
  by_cases h1 : j = a
  · subst h1
    by_cases h2 : b = j
    · subst h2; simp [ha]
    · simp [h2, ha, hb]
  · by_cases h2 : j = b
    · subst h2; simp [h1, hb, ha]
    · simp [h1, h2, Ne.symm h1, Ne.symm h2]

/-! The loops. -/

/-- `siftUp`'s loop (40_heap.md R102): what each of its swaps keeps holds of its answer. -/
theorem Fhu.siftUpLoop_induct {P : Nat → Fhu → Prop}
    (step : ∀ ix h, P ix h → 0 < ix → h.freqAt (parentIx ix) < h.freqAt ix →
      P (parentIx ix) (h.swap ix (parentIx ix)))
    (fuel : Nat) {ix : Nat} {h : Fhu} (h0 : P ix h) :
    P (Fhu.siftUpLoop fuel ix h).1 (Fhu.siftUpLoop fuel ix h).2 := by
  induction fuel generalizing ix h with
  | zero => exact h0
  | succ fuel ih =>
    unfold Fhu.siftUpLoop
    split
    · rename_i hc; exact ih (step ix h h0 hc.1 hc.2)
    · exact h0

/-- `siftUp`'s loop ends at the root or under a parent at least as frequent. -/
theorem Fhu.siftUpLoop_stops {fuel ix : Nat} {h : Fhu} (hf : ix ≤ fuel) :
    (Fhu.siftUpLoop fuel ix h).1 = 0 ∨
      ¬ (Fhu.siftUpLoop fuel ix h).2.freqAt (parentIx (Fhu.siftUpLoop fuel ix h).1)
        < (Fhu.siftUpLoop fuel ix h).2.freqAt (Fhu.siftUpLoop fuel ix h).1 := by
  induction fuel generalizing ix h with
  | zero => left; simp only [Fhu.siftUpLoop]; omega
  | succ fuel ih =>
    unfold Fhu.siftUpLoop
    split
    · refine ih ?_; unfold parentIx; omega
    · rename_i hc
      rcases Nat.eq_zero_or_pos ix with h0 | h0
      · exact .inl h0
      · exact .inr (fun hlt => hc ⟨h0, hlt⟩)

/-- The child `siftDown` considers is a child, live whenever the left one is. -/
theorem Fhu.largerChild_cases (ix : Nat) :
    (h.largerChild ix = rightIx ix ∧ rightIx ix < h.nc.toNat) ∨ h.largerChild ix = leftIx ix := by
  unfold Fhu.largerChild
  split
  · rename_i hc; exact .inl ⟨rfl, hc.1⟩
  · exact .inr rfl

/-- `siftDown`'s loop (40_heap.md R103): what each of its swaps keeps holds of its answer. -/
theorem Fhu.siftDownLoop_induct {P : Nat → Fhu → Prop}
    (step : ∀ ix h, P ix h → leftIx ix < h.nc.toNat → h.freqAt ix < h.freqAt (h.largerChild ix) →
      P (h.largerChild ix) (h.swap ix (h.largerChild ix)))
    (fuel : Nat) {ix : Nat} {h : Fhu} (h0 : P ix h) :
    P (Fhu.siftDownLoop fuel ix h).1 (Fhu.siftDownLoop fuel ix h).2 := by
  induction fuel generalizing ix h with
  | zero => exact h0
  | succ fuel ih =>
    unfold Fhu.siftDownLoop
    split
    · exact h0
    · rename_i hl
      split
      · rename_i hc; exact ih (step ix h h0 (by omega) hc)
      · exact h0

/-- The ancestor recompute (40_heap.md R112): what each of its writes keeps holds of its answer. -/
theorem Fhu.recompute_induct {P : Fhu → Prop}
    (step : ∀ h a v, P h → P (h.setFreq a v)) (fuel : Nat) {a : Nat} {h : Fhu} (h0 : P h) :
    P (Fhu.recompute fuel a h) := by
  induction fuel generalizing a h with
  | zero => exact h0
  | succ fuel ih =>
    unfold Fhu.recompute
    split
    · exact ih (step h _ _ h0)
    · exact h0

@[simp] theorem Fhu.fixEntry_freq (ix : Nat) : (h.fixEntry ix).freq = h.freq := by
  unfold Fhu.fixEntry; split <;> rfl
@[simp] theorem Fhu.fixEntry_sym (ix : Nat) : (h.fixEntry ix).sym = h.sym := by
  unfold Fhu.fixEntry; split <;> rfl
@[simp] theorem Fhu.fixEntry_nc (ix : Nat) : (h.fixEntry ix).nc = h.nc := by
  unfold Fhu.fixEntry; split <;> rfl
@[simp] theorem Fhu.fixEntry_length (ix : Nat) : (h.fixEntry ix).table.length = h.table.length := by
  unfold Fhu.fixEntry; split <;> simp

/-- The arrays keep their lengths and NC its value. -/
def Fhu.SameShape (g h : Fhu) : Prop :=
  h.freq.length = g.freq.length ∧ h.sym.length = g.sym.length ∧ h.table.length = g.table.length ∧ h.nc = g.nc

theorem Fhu.siftUp_sameShape (ix : Nat) : h.SameShape (h.siftUp ix).2 := by
  have hl := Fhu.siftUpLoop_induct (P := fun _ g => h.SameShape g)
    (fun _ g hg _ _ => by obtain ⟨h1, h2, h3, h4⟩ := hg; exact ⟨by simpa, by simpa, by simpa, by simpa⟩)
    ix (ix := ix) (h := h) ⟨rfl, rfl, rfl, rfl⟩
  obtain ⟨h1, h2, h3, h4⟩ := hl
  exact ⟨by simpa [Fhu.siftUp], by simpa [Fhu.siftUp], by simpa [Fhu.siftUp], by simpa [Fhu.siftUp]⟩

theorem Fhu.siftDown_sameShape (ix : Nat) : h.SameShape (h.siftDown ix).2 :=
  Fhu.siftDownLoop_induct (P := fun _ g => h.SameShape g)
    (fun _ g hg _ _ => by obtain ⟨h1, h2, h3, h4⟩ := hg; exact ⟨by simpa, by simpa, by simpa, by simpa⟩)
    h.nc.toNat (ix := ix) (h := h) ⟨rfl, rfl, rfl, rfl⟩

theorem Fhu.recompute_sameShape (fuel a : Nat) : h.SameShape (Fhu.recompute fuel a h) :=
  Fhu.recompute_induct (P := fun g => h.SameShape g)
    (fun g a v hg => by obtain ⟨h1, h2, h3, h4⟩ := hg; exact ⟨by simpa, by simpa, by simpa, by simpa⟩)
    fuel ⟨rfl, rfl, rfl, rfl⟩

/-- HEAP.INIT leaves the heap of reset (70_reset_and_hazards.md R260). -/
theorem Fhu.init_eq_empty (p : Params) : Fhu.init p = Fhu.empty p := by
  have hi : internal = BitVec.allOnes 32 := by decide
  have ha : absent = BitVec.allOnes 32 := by decide
  simp [Fhu.init, Fhu.empty, hi, ha]

end Sys2Proof.Machine
end

