-- ==== Sys2Proof/Laws/Window.lean ====
section
/-! SUPPORT. The register window: what address a host access must have, and what each host action answers. -/
namespace Sys2Proof.Machine

variable (s : State)

/-- A 64-bit access at an aligned offset of the window reaches that register (10_state.md R41, 20_memory.md R69). -/
theorem accessOffset_register (p : Params) {offset : Nat} (ha : offset % 8 = 0) (hw : offset < 0x80) :
    accessOffset p 64 (p.regBase + offset) = .ok offset := by
  simp [accessOffset, windowOffset, hw, ha]

/-- An access in the window of another width or alignment is refused (10_state.md R41). -/
theorem accessOffset_misaligned (p : Params) {width offset : Nat} (hw : offset < 0x80) (h : width ≠ 64 ∨ offset % 8 ≠ 0) :
    accessOffset p width (p.regBase + offset) = .error .registerAccess := by
  simp [accessOffset, windowOffset, hw, h]

/-- An access outside the window is refused (20_memory.md R69, log entry 10). -/
theorem accessOffset_outside (p : Params) {width addr : Nat} (h : addr < p.regBase ∨ p.regBase + 0x80 ≤ addr) :
    accessOffset p width addr = .error .outsideWindow := by
  simp only [accessOffset, windowOffset]
  rw [if_neg (by omega)]

/-- The only accesses that reach a register. -/
theorem accessOffset_ok {p : Params} {width addr offset : Nat} (h : accessOffset p width addr = .ok offset) :
    addr = p.regAddr offset ∧ width = 64 ∧ offset % 8 = 0 ∧ offset < 0x80 := by
  simp only [accessOffset, windowOffset] at h
  split at h
  · cases h
  · rename_i o ho
    split at ho
    · injection ho with ho
      split at h
      · cases h
      · injection h with h
        unfold Params.regAddr
        omega
    · cases ho

/-- A host write to a register of the window. -/
theorem act_regWrite {offset : Nat} (v : Word) (ha : offset % 8 = 0) (hw : offset < 0x80) :
    act (.regWrite 64 (s.param.regBase + offset) v) s = hostWrite offset v s := by
  simp [act, accessOffset_register s.param ha hw]

/-- A host read of a register of the window. -/
theorem act_regRead {offset : Nat} (ha : offset % 8 = 0) (hw : offset < 0x80) :
    act (.regRead 64 (s.param.regBase + offset)) s
      = .next { s with hostReads := .reg (s.param.regBase + offset) (s.readReg offset) :: s.hostReads } := by
  simp [act, accessOffset_register s.param ha hw]

/-- A host write while BUSY is 1 is dropped (60_exceptions.md R233). -/
theorem hostWrite_busy (offset : Nat) (v : Word) (h : s.busy = true) : hostWrite offset v s = .next s.busyWrite := by
  simp [hostWrite, h]

/-- A dropped write while a fault is recorded changes nothing (60_exceptions.md R233). -/
theorem busyWrite_faulted (h : s.faultCause ≠ .none) : s.busyWrite = s := by
  simp [State.busyWrite, State.recordFault, h]

end Sys2Proof.Machine
end

