-- ==== Sys2Proof/Tests/Slice0.lean ====
section
/-! SUPPORT. The model's own tests: the checks of WellFormed, every command's word, one step of each command, and for every
obligation with hypotheses a concrete state that meets them. Expected values are the spec's; the file and rule, or the vector
of 95_test_vectors.md, stands beside each test. -/
namespace Sys2Proof.Tests
open Sys2Proof Sys2Proof.Machine

/-! ## WellFormed -/

/-- `N = 4`, `AW = 16` (the vectors' parameters, 95_test_vectors.md), with a window base of this file's own. -/
def small : Params :=
  { logN := 2, aw := 16, debugVerify := true, matchJ0 := false, matchTie := false, regBase := 0x40000000 }

theorem test_wf_accepts_small : small.wf = true := by decide
theorem test_wf_accepts_bounds :
    ({ small with logN := 30, aw := 64 } : Params).wf = true ∧ ({ small with logN := 2, aw := 1 } : Params).wf = true := by decide
theorem test_wf_refuses_n_below_4 : ({ small with logN := 1 } : Params).logNWf = false := by decide
theorem test_wf_refuses_n_above_2_30 : ({ small with logN := 31 } : Params).logNWf = false := by decide
theorem test_wf_refuses_no_address_bits : ({ small with aw := 0 } : Params).awWf = false := by decide
theorem test_wf_refuses_aw_above_64 : ({ small with aw := 65 } : Params).awWf = false := by decide
theorem test_wf_needs_both_checks :
    ({ small with logN := 31 } : Params).wf = false ∧ ({ small with aw := 65 } : Params).wf = false := by decide

/-! ## Decoding: the words of 30_encoding.md R82, bit by bit -/

theorem test_decode_heapInit : decodeTableWord 32 0b00000000000000000000000000000001 = some .heapInit := by decide
theorem test_decode_heapAdd : decodeTableWord 32 0b00000000000000000000000000000010 = some .heapAdd := by decide
theorem test_decode_heapInc : decodeTableWord 32 0b00000000000000000000000000000011 = some .heapInc := by decide
theorem test_decode_heapPath : decodeTableWord 32 0b00000000000000000000000000000100 = some .heapPath := by decide
theorem test_decode_heapVerify : decodeTableWord 32 0b00000000000000000000000000000101 = some .heapVerify := by decide
theorem test_decode_heapRdnode : decodeTableWord 32 0b00000000000000000000000000000110 = some .heapRdnode := by decide
theorem test_decode_heapRdtab : decodeTableWord 32 0b00000000000000000000000000000111 = some .heapRdtab := by decide
theorem test_decode_bcOpenw : decodeTableWord 32 0b00000000000000000000000000010000 = some .bcOpenw := by decide
theorem test_decode_bcOpenr : decodeTableWord 32 0b00000000000000000000000000010001 = some .bcOpenr := by decide
theorem test_decode_bcClose : decodeTableWord 32 0b00000000000000000000000000010010 = some .bcClose := by decide
theorem test_decode_bcWbit : decodeTableWord 32 0b00000000000000000000000000010011 = some .bcWbit := by decide
theorem test_decode_bcWbits : decodeTableWord 32 0b00000000000000000000000000010100 = some .bcWbits := by decide
theorem test_decode_bcWnum : decodeTableWord 32 0b00000000000000000000000000010101 = some .bcWnum := by decide
theorem test_decode_bcFlush : decodeTableWord 32 0b00000000000000000000000000010110 = some .bcFlush := by decide
theorem test_decode_bcRbit : decodeTableWord 32 0b00000000000000000000000000010111 = some .bcRbit := by decide
theorem test_decode_bcRbits : decodeTableWord 32 0b00000000000000000000000000011000 = some .bcRbits := by decide
theorem test_decode_bcRnum : decodeTableWord 32 0b00000000000000000000000000011001 = some .bcRnum := by decide
theorem test_decode_cxWhdr : decodeTableWord 32 0b00000000000000000000000000100000 = some .cxWhdr := by decide
theorem test_decode_cxRhdr : decodeTableWord 32 0b00000000000000000000000000100001 = some .cxRhdr := by decide
theorem test_decode_cxCompress : decodeTableWord 32 0b00000000000000000000000000100010 = some .cxCompress := by decide
theorem test_decode_cxDecompress : decodeTableWord 32 0b00000000000000000000000000100011 = some .cxDecompress := by decide

/-- The unassigned opcodes next to the assigned ones (30_encoding.md R84). -/
theorem test_decode_refuses_unassigned :
    decode 0x00#64 = .error .illegalCommand ∧ decode 0x08#64 = .error .illegalCommand
    ∧ decode 0x0F#64 = .error .illegalCommand ∧ decode 0x1A#64 = .error .illegalCommand
    ∧ decode 0x1F#64 = .error .illegalCommand ∧ decode 0x24#64 = .error .illegalCommand
    ∧ decode 0xFF#64 = .error .illegalCommand := by decide

/-- A reserved bit of an assigned OP, at both ends of `v[63:8]`; an unassigned OP is found first (30_encoding.md R81). -/
theorem test_decode_refuses_reserved :
    decode 0x102#64 = .error .reservedBits ∧ decode 0x8000000000000023#64 = .error .reservedBits
    ∧ decode 0x108#64 = .error .illegalCommand := by decide

/-! ## One step of each command -/

/-- What a step leaves, as a test looks at it. -/
def after {α : Type} (r : Result) (f : State → α) : Option α :=
  match r with
  | .next t => some (f t)
  | .fault _ => none
  | .refused _ => none

/-- The state a meaning answers, for tests whose premise is that it answers one. -/
def ran (i : Instr) (s : State) : State := (after (exec i s) id).getD s

theorem next_after {r : Result} (s : State) (h : after r (fun _ => true) = some true) : r = .next ((after r id).getD s) := by
  cases r <;> simp_all [after]
theorem exec_ran {i : Instr} {s : State} (h : after (exec i s) (fun _ => true) = some true) : exec i s = .next (ran i s) :=
  next_after s h

/-- A small state with the operands given. -/
def base (a0 a1 a2 : Nat) : State :=
  { State.resetWith small with arg0 := BitVec.ofNat 64 a0, arg1 := BitVec.ofNat 64 a1, arg2 := BitVec.ofNat 64 a2 }

/-- A heap of `N = 4` from its live nodes and its table. -/
def heap (nodes : List (Nat × Int)) (table : List Int) : Fhu :=
  { freq := nodes.map (fun x => BitVec.ofNat 64 x.1) ++ List.replicate (8 - nodes.length) 0#64
    sym := nodes.map (fun x => BitVec.ofInt 32 x.2) ++ List.replicate (8 - nodes.length) 0xFFFFFFFF#32
    table := table.map (BitVec.ofInt 32)
    nc := BitVec.ofNat 32 nodes.length }

/-- The heaps of the example of 40_heap.md R111. -/
def heap0 : Fhu := heap [] [-1, -1, -1, -1]
def heap1 : Fhu := heap [(1, 0)] [0, -1, -1, -1]
def heap2 : Fhu := heap [(1, 0), (1, 1)] [0, 1, -1, -1]
def heap3 : Fhu := heap [(2, -1), (1, 1), (1, 0), (1, 2)] [2, 1, 3, -1]
def heap4 : Fhu := heap [(2, -1), (2, -1), (1, 0), (1, 2), (1, 1), (1, 3)] [2, 4, 3, 5]

/-- A state with a heap and ARG0. -/
def withHeap (h : Fhu) (a0 : Nat) : State := { base a0 0 0 with fhu := h }

/-- A session's state: direction, ACC, CURSOR, the answers to come, and the operands. -/
def session (d : Dir) (acc : Word) (cursor : Nat) (wa : List WriteAnswer) (ra : List ReadAnswer) (a0 a1 a2 : Nat) : State :=
  { base a0 a1 a2 with
    chan := { dir := d, acc := acc, cursor := BitVec.ofNat 7 cursor, words := 0#64, err := .clear
              port := { writeAnswers := wa, readAnswers := ra, draws := 0, trace := [] } } }

/-- ACC, CURSOR, WORDS and ERR. -/
def regs (s : State) : Word × Nat × Word × Err := (s.chan.acc, s.chan.cursor.toNat, s.chan.words, s.chan.err)

/-- 40_heap.md R110, example. -/
theorem test_heapInit_clears : after (exec .heapInit (withHeap heap1 0)) (fun t => t.fhu) = some heap0 := by decide
/-- 40_heap.md R111, example, third row: the merge, with the leaf of symbol 0 moved to index 2. -/
theorem test_heapAdd_third :
    after (exec .heapAdd (withHeap heap2 2)) (fun t => (t.fhu, t.res0)) = some (heap3, 3#64) := by decide
/-- 40_heap.md R111, example, fourth row. -/
theorem test_heapAdd_fourth :
    after (exec .heapAdd (withHeap heap3 3)) (fun t => (t.fhu, t.res0)) = some (heap4, 5#64) := by decide
/-- 40_heap.md R112, Example 2, first row: the leaf rises past its parent. -/
theorem test_heapInc_rises :
    after (exec .heapInc (withHeap heap3 2)) (fun t => (t.fhu, t.res0))
      = some (heap [(3, -1), (2, 2), (1, 0), (1, 1)] [2, 3, 1, -1], 1#64) := by decide
/-- 40_heap.md R112, Example 2, last row: a leaf ancestor falls from 5 to 3. -/
theorem test_heapInc_lowers_a_leaf_ancestor :
    after (exec .heapInc (withHeap (heap [(6, -1), (5, 2), (1, 0), (2, 1)] [2, 3, 1, -1]) 1)) (fun t => (t.fhu, t.res0))
      = some (heap [(4, -1), (3, 2), (1, 0), (3, 1)] [2, 3, 1, -1], 3#64) := by decide
/-- 40_heap.md R113, example, symbol 1. -/
theorem test_heapPath_symbol_1 :
    after (exec .heapPath (withHeap heap4 1)) (fun t => (t.res0, t.res1, t.res2)) = some (4#64, 2#64, 2#64) := by decide
/-- 95_test_vectors.md H6: an absent symbol. -/
theorem test_heapPath_absent :
    after (exec .heapPath (withHeap heap3 3)) (fun t => (t.res0, t.res1, t.res2))
      = some (0xFFFFFFFFFFFFFFFF#64, 0#64, 0#64) := by decide
/-- 40_heap.md R114, example. -/
theorem test_heapVerify_true : after (exec .heapVerify (withHeap heap4 0)) (fun t => t.res0) = some 1#64 := by decide
/-- 95_test_vectors.md H9: `H` fails at index 0, and `T` fails for symbol 1. -/
theorem test_heapVerify_false :
    (heap [(0, 0), (1, 1)] [0, 1, -1, -1]).verify small = false
      ∧ (heap [(1, 0)] [0, 1, -1, -1]).verify small = false := by decide
/-- 40_heap.md R115, example: the internal root, and a dead slot. -/
theorem test_heapRdnode_root_and_dead_slot :
    after (exec .heapRdnode (withHeap heap3 0)) (fun t => (t.res0, t.res1, t.res2))
      = some (2#64, 0xFFFFFFFFFFFFFFFF#64, 1#64)
    ∧ after (exec .heapRdnode (withHeap heap3 5)) (fun t => (t.res0, t.res1, t.res2))
      = some (0#64, 0xFFFFFFFFFFFFFFFF#64, 0#64) := by decide
/-- 40_heap.md R116, example. -/
theorem test_heapRdtab :
    after (exec .heapRdtab (withHeap heap3 2)) (fun t => t.res0) = some 3#64
    ∧ after (exec .heapRdtab (withHeap heap3 3)) (fun t => t.res0) = some 0xFFFFFFFFFFFFFFFF#64 := by decide
/-- 95_test_vectors.md H8: the FAULT register after four refused heap commands. -/
theorem test_heap_faults :
    after (exec .heapAdd (withHeap heap0 4)) State.faultView = some 0x205#64
    ∧ after (exec .heapInc (withHeap heap1 1)) State.faultView = some 0x306#64
    ∧ after (exec .heapAdd (withHeap heap1 0)) State.faultView = some 0x207#64
    ∧ after (exec .heapRdnode (withHeap heap0 8)) State.faultView = some 0x604#64 := by decide

/-- 41_bitchannel.md R150, R151, examples: STATUS. -/
theorem test_bcOpenw_status : after (exec .bcOpenw (session .read 7 5 [] [] 0 0 0)) State.statusView = some 0x4#64 := by
  decide
theorem test_bcOpenr_status : after (exec .bcOpenr (session .write 7 5 [] [] 0 0 0)) State.statusView = some 0x8#64 := by
  decide
/-- 95_test_vectors.md B3, last row: the pending bits are lost, the registers kept. -/
theorem test_bcClose_keeps :
    after (exec .bcClose (session .write 3 2 [] [] 0 0 0)) (fun t => (t.chan.dir, regs t))
      = some (.none, 3#64, 2, 0#64, .clear) := by decide
/-- 41_bitchannel.md R153, example: the full word goes out first. -/
theorem test_bcWbit_on_a_full_word :
    after (exec .bcWbit (session .write 0xFFFFFFFFFFFFFFFF 64 [.ok] [] 0 0 0)) (fun t => (regs t, t.chan.port.trace))
      = some ((0#64, 1, 1#64, .clear), [.wrote 0xFFFFFFFFFFFFFFFF .ok]) := by decide
/-- 41_bitchannel.md R156, example: the refused word stays and the bit is dropped. -/
theorem test_bcWbit_refused :
    after (exec .bcWbit (session .write 0xFFFFFFFFFFFFFFFF 64 [.fail] [] 1 0 0)) regs
      = some (0xFFFFFFFFFFFFFFFF#64, 64, 1#64, .ioFailure) := by decide
/-- 95_test_vectors.md B3, first row, and P3 line 3. -/
theorem test_bcWbits_5_3 :
    after (exec .bcWbits (session .write 0 0 [] [] 5 3 0)) regs = some (5#64, 3, 0#64, .clear) := by decide
theorem test_bcWbits_appends_above :
    after (exec .bcWbits (session .write 0x4DC 12 [] [] 5 3 0)) regs = some (0x54DC#64, 15, 0#64, .clear) := by decide
/-- 41_bitchannel.md R155, examples. -/
theorem test_bcWnum_300_3 :
    after (exec .bcWnum (session .write 0 0 [] [] 300 3 0)) regs = some (0x4DC#64, 12, 0#64, .clear) := by decide
theorem test_bcWnum_5_1 :
    after (exec .bcWnum (session .write 0 0 [] [] 5 1 0)) regs = some (0x1B#64, 6, 0#64, .clear) := by decide
/-- 95_test_vectors.md P3 line 4. -/
theorem test_bcFlush_writes :
    after (exec .bcFlush (session .write 0x54DC 15 [.ok] [] 0 0 0)) (fun t => (regs t, t.chan.port.trace))
      = some ((0#64, 0, 1#64, .clear), [.wrote 0x54DC .ok]) := by decide
/-- 41_bitchannel.md R157, example: bit 0 of the first word, and bit 65, of the second. -/
theorem test_bcRbit_first :
    after (exec .bcRbit (session .read 0 0 [] [.word 0x8000000000000001] 0 0 0)) (fun t => (t.res0, regs t))
      = some (1#64, 0x8000000000000001#64, 1, 1#64, .clear) := by decide
theorem test_bcRbit_within_a_word :
    after (exec .bcRbit (session .read 2 1 [] [] 0 0 0)) (fun t => (t.res0, regs t)) = some (1#64, 2#64, 2, 0#64, .clear) := by
  decide
/-- 41_bitchannel.md R158, example, with and without the read failing. -/
theorem test_bcRbits_16 :
    after (exec .bcRbits (session .read 0 0 [] [.word 0xABCD] 16 0 0)) (fun t => (t.res0, t.chan.cursor.toNat))
      = some (0xABCD#64, 16) := by decide
theorem test_bcRbits_failed :
    after (exec .bcRbits (session .read 0 0 [] [.fail] 16 0 0)) (fun t => (t.res0, regs t))
      = some (0#64, 0#64, 0, 1#64, .ioFailure) := by decide
/-- 95_test_vectors.md B2, first row and last row. -/
theorem test_bcRnum_zero_chunk :
    after (exec .bcRnum (session .read 0 0 [] [.word 0xD] 3 0 0)) (fun t => (t.res0, regs t))
      = some (5#64, 0xD#64, 8, 1#64, .clear) := by decide
theorem test_bcRnum_overflow :
    after (exec .bcRnum (session .read 0 0 [] [.word 0x1FFFFFFFFFFFFFFF, .word 2] 60 0 0)) (fun t => (t.res0, regs t))
      = some (0#64, 2#64, 57, 2#64, .invalidParameter) := by decide +kernel
/-- 95_test_vectors.md B5: the FAULT register after four refused bit-channel commands. -/
theorem test_bc_faults :
    after (exec .bcWbit (base 1 0 0)) State.faultView = some 0x1303#64
    ∧ after (exec .bcWbits (session .write 0 0 [] [] 0 65 0)) State.faultView = some 0x1404#64
    ∧ after (exec .bcWnum (session .write 0 0 [] [] 1 0 0)) State.faultView = some 0x1504#64
    ∧ after (exec .bcRnum (session .read 0 0 [] [] 0 0 0)) State.faultView = some 0x1904#64 := by decide

/-- 95_test_vectors.md X4, rows 1 and 2. -/
theorem test_cxWhdr_writes :
    after (exec .cxWhdr (session .write 0 0 [.ok, .ok] [] 5 10 0)) (fun t => t.chan.port.trace)
      = some [.wrote 10 .ok, .wrote 5 .ok] := by decide
theorem test_cxWhdr_illegal :
    after (exec .cxWhdr (session .write 0 0 [] [] 5 9 0)) regs = some (0#64, 0, 0#64, .invalidParameter) := by decide
/-- 95_test_vectors.md X4, rows 5 and 6. -/
theorem test_cxRhdr_illegal_windowBits :
    after (exec .cxRhdr (session .read 0 0 [] [.word 5, .word 0x10000000A] 0 0 0)) (fun t => (t.res0, t.res1, t.chan.err))
      = some (5#64, 0x10000000A#64, .invalidParameter) := by decide
theorem test_cxRhdr_failed :
    after (exec .cxRhdr (session .read 0 0 [] [.word 5, .fail] 0 0 0)) (fun t => (t.res0, t.res1, regs t))
      = some (0#64, 0#64, 0#64, 0, 2#64, .ioFailure) := by decide

/-- `"aaaaaa"` from address 0x100 (95_test_vectors.md P2). -/
def sixA : Memory := (List.range 6).map (fun k => (0x100 + k, 0x61#8))

/-- The write session of 95_test_vectors.md P2 line 3. -/
def compressing : State := { session .write 0 0 [.ok, .ok, .ok] [] 0x100 6 10 with dmem := sixA }

/-- The read session of 95_test_vectors.md P2 line 5, with room for 6 bytes. -/
def decompressing : State := session .read 0 0 [] [.word 6, .word 10, .word 0x107C2C2] 0x200 6 10

/-- 95_test_vectors.md X1 row 9 (P2 line 3). -/
theorem test_cxCompress_six_a :
    after (exec .cxCompress compressing) (fun t => (acceptedWords t.chan.port.trace, t.res0, t.res1, t.chan.dir))
      = some ([6#64, 10#64, 0x107C2C2#64], 3#64, 6#64, .none) := by decide
/-- 95_test_vectors.md X2 row 2: the last word is refused. -/
theorem test_cxCompress_refused :
    after (exec .cxCompress
        { session .write 0 0 [.ok, .ok, .fail] [] 0 3 10 with dmem := [(0, 0x61#8), (1, 0x62#8), (2, 0x63#8)] })
      (fun t => (t.res0, t.res1, regs t)) = some (3#64, 3#64, 0xC6C4C2#64, 24, 3#64, .ioFailure) := by decide
/-- 95_test_vectors.md P2 line 5: results, and ACC and CURSOR as the session leaves them. -/
theorem test_cxDecompress_six_a :
    after (exec .cxDecompress decompressing) (fun t => (t.res0, t.res1, t.res2))
      = some (6#64, 6#64, 10#64)
    ∧ after (exec .cxDecompress decompressing) regs = some (0x107C2C2#64, 26, 3#64, .clear)
    ∧ after (exec .cxDecompress decompressing) (fun t => t.dmem.map (fun c => (c.1, c.2.toNat)))
      = some ((List.range 6).map (fun k => (0x200 + k, 0x61))) := by decide
/-- 95_test_vectors.md X3 row 5: a match that starts before the output. -/
theorem test_cxDecompress_refuses_a_far_match :
    after (exec .cxDecompress (session .read 0 0 [] [.word 4, .word 10, .word 0xCBC2] 0x200 0x100 10))
      (fun t => (t.res0, t.res1, t.chan.err, t.dmem.map (fun c => (c.1, c.2.toNat))))
      = some (1#64, 4#64, .invalidParameter, [(0x200, 0x61)]) := by decide

/-! ## The window -/

/-- 95_test_vectors.md 2.6: PARAM with `N = 4` and `N = 32`. -/
theorem test_param : (base 0 0 0).readReg 0 = 0x11002#64 ∧ State.reset.readReg 0 = 0x11005#64 := by decide
/-- 95_test_vectors.md 2.6: `ERR <- 3` stores 2, and `ERR <- 0x11` stores 1. -/
theorem test_err_write :
    ((base 0 0 0).writeReg 0x48 3#64).readReg 0x48 = 2#64 ∧ ((base 0 0 0).writeReg 0x48 0x11#64).readReg 0x48 = 1#64 := by
  decide
/-- 95_test_vectors.md P4 lines 2 to 4: the fault, then a refused HEAP.INIT. -/
theorem test_fault_refuses :
    after (step ((withHeap heap1 4).withFetchWord 32 0x02)) State.faultView = some 0x205#64
    ∧ after (step ({ withHeap heap1 4 with faultCause := .symbolRange, faultWord := 2#32 }.withFetchWord 32 0x01))
        (fun t => (t.fhu, t.faultView)) = some (heap1, 0x205#64) := by decide
/-- The first instruction after reset is the one `withFetchWord` places: HEAP.VERIFY gives 1 (95_test_vectors.md H4). -/
theorem test_withFetchWord_runs :
    after (step (State.reset.withFetchWord 32 0x05)) (fun t => (t.res0, t.busy)) = some (1#64, false) := by decide
/-- The reset state of the model lists nothing and has DMEM in canonical form. -/
theorem test_reset_dmem : State.reset.dmem.wf := reset_dmem_wf

/-! ## Witnesses: for every obligation with hypotheses, a state that meets them all, clause by clause -/

theorem chanOk_write {c : Channel} (hd : c.dir = .write) (h : c.cursor.toNat ≤ 64 ∧ c.acc.toNat < 2 ^ c.cursor.toNat) : c.Ok := by
  unfold Channel.Ok; rw [hd]; exact h
theorem chanOk_read {c : Channel} (hd : c.dir = .read) (h : c.cursor.toNat < 64) : c.Ok := by
  unfold Channel.Ok; rw [hd]; exact h
theorem chanOk_none {c : Channel} (hd : c.dir = .none) (h : c.cursor.toNat ≤ 64) : c.Ok := by
  unfold Channel.Ok; rw [hd]; exact h

theorem ordered_of {h : Fhu} (hc : ∀ c, c < h.nc.toNat → 0 < c → h.freqAt c ≤ h.freqAt ((c - 1) / 2)) : h.Ordered := by
  intro ix c hx hl
  have := hc c hl
  rcases hx with rfl | rfl
  · have e : (leftIx ix - 1) / 2 = ix := by unfold leftIx; omega
    rw [e] at this; exact this (by unfold leftIx; omega)
  · have e : (rightIx ix - 1) / 2 = ix := by unfold rightIx; omega
    rw [e] at this; exact this (by unfold rightIx; omega)

theorem deadClear_of {h : Fhu} (hf : h.freq.length = 8) (hs : h.sym.length = 8)
    (hk : ∀ k, k < 8 → h.nc.toNat ≤ k → h.freqAt k = 0#64 ∧ h.symAt k = internal) : h.DeadClear := by
  intro k hn
  by_cases h8 : k < 8
  · exact hk k h8 hn
  · simp [Fhu.freqAt, Fhu.symAt, hf, hs, Nat.le_of_not_lt h8]

theorem farFromWrap_of {h : Fhu} (hf : h.freq.length = 8) (hk : ∀ k, k < 8 → (h.freqAt k).toNat < 2 ^ 58) : h.FarFromWrap := by
  intro k
  by_cases h8 : k < 8
  · exact hk k h8
  · simp [Fhu.freqAt, hf, Nat.le_of_not_lt h8]

theorem fhuOk_heap0 : FhuOk small heap0 :=
  ⟨by decide, by decide, by decide, by decide, ⟨by decide, by decide⟩, deadClear_of (by decide) (by decide) (by decide), by decide⟩
theorem fhuOk_heap1 : FhuOk small heap1 :=
  ⟨by decide, by decide, by decide, by decide, ⟨by decide, by decide⟩, deadClear_of (by decide) (by decide) (by decide), by decide⟩
theorem fhuOk_heap2 : FhuOk small heap2 :=
  ⟨by decide, by decide, by decide, by decide, ⟨by decide, by decide⟩, deadClear_of (by decide) (by decide) (by decide), by decide⟩
theorem fhuOk_heap3 : FhuOk small heap3 :=
  ⟨by decide, by decide, by decide, by decide, ⟨by decide, by decide⟩, deadClear_of (by decide) (by decide) (by decide), by decide⟩
theorem fhuOk_heap4 : FhuOk small heap4 :=
  ⟨by decide, by decide, by decide, by decide, ⟨by decide, by decide⟩, deadClear_of (by decide) (by decide) (by decide), by decide⟩
theorem ordered_heap3 : heap3.Ordered := ordered_of (by decide)
theorem ordered_heap4 : heap4.Ordered := ordered_of (by decide)

/-- A state about to take a host action. -/
def about (a : HostAction) (s : State) : State := { s with pending := [a] }

/-- A faulted state. -/
def faulted : State := { withHeap heap1 4 with faultCause := .symbolRange, faultWord := 2#32 }

theorem witness_DecodeErrorsByOpcodeAndReservedBits :
    (0x08 = (0x108#64 : Word).toNat % 256 ∧ 0x08 ≤ 0x08 ∧ 0x08 ≤ 0x0F)
    ∧ (0x24 = (0x24#64 : Word).toNat % 256 ∧ 0x24 ≤ 0x24)
    ∧ (0x01 = (0x101#64 : Word).toNat % 256 ∧ 256 ≤ (0x101#64 : Word).toNat) := by decide

theorem witness_StepRunsTheCommandWritten :
    (about (.regWrite 64 0x40000008 0x23#64) decompressing).pending = .regWrite 64 (decompressing.param.regBase + 0x08) 0x23#64 :: []
    ∧ (about (.regWrite 64 0x40000008 0x23#64) decompressing).busy = false
    ∧ (about (.regWrite 64 0x40000008 0x23#64) decompressing).faultCause = .none
    ∧ decode 0x23#64 = .ok .cxDecompress := by decide

/-- An unassigned OP with reserved bits set; an assigned OP with the lowest reserved bit set. -/
theorem witness_UnassignedOrReservedWordFaults :
    ((about (.regWrite 64 0x40000008 0x11A#64) (base 0 0 0)).pending = .regWrite 64 ((base 0 0 0).param.regBase + 0x08) 0x11A#64 :: []
      ∧ (about (.regWrite 64 0x40000008 0x11A#64) (base 0 0 0)).busy = false
      ∧ (about (.regWrite 64 0x40000008 0x11A#64) (base 0 0 0)).faultCause = .none
      ∧ 0x1A = (0x11A#64 : Word).toNat % 256 ∧ 0x1A ≤ 0x1A ∧ 0x1A ≤ 0x1F)
    ∧ ((about (.regWrite 64 0x40000008 0x123#64) (base 0 0 0)).pending = .regWrite 64 ((base 0 0 0).param.regBase + 0x08) 0x123#64 :: []
      ∧ 0x23 = (0x123#64 : Word).toNat % 256
      ∧ ¬ (0x23 = 0 ∨ (0x08 ≤ 0x23 ∧ 0x23 ≤ 0x0F) ∨ (0x1A ≤ 0x23 ∧ 0x23 ≤ 0x1F) ∨ 0x24 ≤ 0x23)
      ∧ 256 ≤ (0x123#64 : Word).toNat) := by decide

theorem witness_FaultedStateRefusesCommands :
    faulted.faultCause ≠ .none ∧ faulted.busy = false
    ∧ (about (.regWrite 64 0x40000008 1#64) faulted).pending = .regWrite 64 (faulted.param.regBase + 0x08) 1#64 :: []
    ∧ (0x78 % 8 = 0 ∧ 0x78 < 0x80 ∧ (about (.regRead 64 0x40000078) faulted).pending = .regRead 64 (faulted.param.regBase + 0x78) :: [])
    ∧ (about (.regWrite 64 0x40000010 1#64) faulted).pending = .regWrite 64 (faulted.param.regBase + 0x10) 1#64 :: []
    ∧ (about (.regWrite 64 0x40000018 1#64) faulted).pending = .regWrite 64 (faulted.param.regBase + 0x18) 1#64 :: []
    ∧ (about (.regWrite 64 0x40000020 1#64) faulted).pending = .regWrite 64 (faulted.param.regBase + 0x20) 1#64 :: []
    ∧ (about (.regWrite 64 0x40000048 3#64) faulted).pending = .regWrite 64 (faulted.param.regBase + 0x48) 3#64 :: []
    ∧ (0xFFFF < 2 ^ faulted.param.aw ∧ (about (.memWrite 0xFFFF 1#8) faulted).pending = .memWrite 0xFFFF 1#8 :: [])
    ∧ (about (.memRead 0xFFFF) faulted).pending = .memRead 0xFFFF :: []
    ∧ (about .reset faulted).pending = .reset :: [] := by decide

theorem witness_FaultStaysUntilReset :
    (about (.regWrite 64 0x40000008 1#64) faulted).faultCause ≠ .none
    ∧ step (about (.regWrite 64 0x40000008 1#64) faulted) = .next faulted
    ∧ ∀ rest, (about (.regWrite 64 0x40000008 1#64) faulted).pending ≠ .reset :: rest :=
  ⟨by decide, rfl, by intro rest h; injection h with h; cases h⟩

theorem witness_ResetActionSetsEveryPiece : (about .reset faulted).pending = .reset :: [] := by decide

/-- The first and the last register of the window, a register of each kind of write, and the bytes beside the window. -/
theorem witness_RegisterMap :
    0x3FFFFFFF < (base 0 0 0).param.regBase ∧ (base 0 0 0).param.regBase + 0x80 ≤ 0x40000080
    ∧ (base 0 0 0).busy = false ∧ 0x00 % 8 = 0 ∧ 0x00 < 0x80 ∧ 0x78 % 8 = 0 ∧ 0x78 < 0x80
    ∧ 0x48 % 8 = 0 ∧ 0x48 < 0x80 ∧ 0x48 ≠ 0x08 := by decide

theorem witness_StatusFaultAndParamFields :
    ({ base 0 0 0 with param := { small with logN := 30, aw := 64 } } : State).param.wf = true := by decide

theorem witness_RegisterAccessRules :
    (0x10 < 0x80 ∧ (32 ≠ 64 ∨ 0x10 % 8 ≠ 0)) ∧ (0x7F < 0x80 ∧ (64 ≠ 64 ∨ 0x7F % 8 ≠ 0)) ∧ (0x78 % 8 = 0 ∧ 0x78 < 0x80)
    ∧ ({ base 0 0 0 with busy := true, cmdWord := 0x22#32 } : State).busy = true
    ∧ ({ base 0 0 0 with busy := true, cmdWord := 0x22#32 } : State).faultCause = .none
    ∧ ({ faulted with busy := true } : State).busy = true ∧ ({ faulted with busy := true } : State).faultCause ≠ .none := by
  decide

theorem witness_RunningCommandCompletes :
    ({ base 0 0 0 with busy := true, cmdWord := 0x05#32 } : State).pending = []
    ∧ ({ base 0 0 0 with busy := true, cmdWord := 0x05#32 } : State).busy = true
    ∧ ({ base 0 0 0 with busy := true, cmdWord := 0x05#32 } : State).cmdWord = encode .heapVerify := by decide

theorem witness_IdleBlockHoldsItsState : faulted.pending = [] ∧ faulted.busy = false := by decide

theorem witness_HostDmemAccess :
    (base 0 0 0).busy = false
    ∧ ((about (.memWrite 0xFFFF 7#8) (base 0 0 0)).pending = .memWrite 0xFFFF 7#8 :: [] ∧ 0xFFFF < 2 ^ (base 0 0 0).param.aw)
    ∧ ((about (.memRead 0) (base 0 0 0)).pending = .memRead 0 :: [] ∧ 0 < 2 ^ (base 0 0 0).param.aw)
    ∧ ((about (.memWrite 0x10000 7#8) (base 0 0 0)).pending = .memWrite 0x10000 7#8 :: []
      ∧ 2 ^ (base 0 0 0).param.aw ≤ 0x10000)
    ∧ (about (.memRead 0x10000) (base 0 0 0)).pending = .memRead 0x10000 :: [] := by decide

theorem witness_HeapCommandsLeaveTheSession :
    Instr.heapAdd ∈ [Instr.heapInit, .heapAdd, .heapInc, .heapPath, .heapVerify, .heapRdnode, .heapRdtab]
    ∧ exec .heapAdd (withHeap heap3 3) = .next (ran .heapAdd (withHeap heap3 3)) :=
  ⟨by decide, exec_ran (by decide)⟩

theorem witness_OtherCommandsLeaveHeapAndDmem :
    exec .cxCompress compressing = .next (ran .cxCompress compressing)
    ∧ Instr.cxCompress ∉ [Instr.heapInit, .heapAdd, .heapInc] ∧ Instr.cxCompress ≠ .cxDecompress :=
  ⟨exec_ran (by decide), by decide, by decide⟩

/-- A heap that `verify()` refuses, before and after HEAP.INC 0: node 3 is more frequent than its parent 1. -/
def disordered : State := withHeap (heap [(20, -1), (1, 1), (7, 0), (9, 2)] [2, 1, 3, -1]) 0

/-- A precise fault, an InvariantViolation, and a HEAP.ADD with DEBUG_VERIFY = 1 that records no fault. -/
theorem witness_FaultsArePrecise :
    ((withHeap heap0 4).faultCause = .none ∧ exec .heapAdd (withHeap heap0 4) = .next (ran .heapAdd (withHeap heap0 4))
      ∧ (ran .heapAdd (withHeap heap0 4)).faultCause = .symbolRange)
    ∧ (disordered.faultCause = .none ∧ exec .heapInc disordered = .next (ran .heapInc disordered)
      ∧ (ran .heapInc disordered).faultCause = .invariantViolation)
    ∧ ((withHeap heap3 3).faultCause = .none ∧ exec .heapAdd (withHeap heap3 3) = .next (ran .heapAdd (withHeap heap3 3))
      ∧ (ran .heapAdd (withHeap heap3 3)).faultCause = .none ∧ (withHeap heap3 3).param.debugVerify = true) :=
  ⟨⟨by decide, exec_ran (by decide), by decide⟩, ⟨by decide, exec_ran (by decide), by decide⟩,
    by decide, exec_ran (by decide), by decide, by decide⟩

/-- A session with ERR set. -/
def failed (d : Dir) (a0 a1 a2 : Nat) : State :=
  { session d 0 0 [] [] a0 a1 a2 with
    chan := { (session d 0 0 [] [] a0 a1 a2).chan with err := .ioFailure } }

theorem witness_FirstErrorWins :
    Instr.bcClose ≠ .bcOpenw ∧ Instr.bcClose ≠ .bcOpenr ∧ (failed .write 0 0 0).chan.err ≠ .clear
    ∧ exec .bcClose (failed .write 0 0 0) = .next (ran .bcClose (failed .write 0 0 0)) :=
  ⟨by decide, by decide, by decide, exec_ran (by decide)⟩

theorem witness_WordsCountsTransactions : exec .cxCompress compressing = .next (ran .cxCompress compressing) :=
  exec_ran (by decide)

/-- Both directions, each operand check at both its bounds. -/
theorem witness_StickyErrorShortCircuits :
    ((failed .write 0 64 0).chan.err ≠ .clear ∧ (failed .write 0 64 0).chan.dir = .write
      ∧ 1 ≤ (failed .write 0 64 0).arg1.toNat ∧ (failed .write 0 64 0).arg1.toNat ≤ 64)
    ∧ ((failed .write 0xFFFF 1 0).chan.err ≠ .clear ∧ (failed .write 0xFFFF 1 0).chan.dir = .write
      ∧ (failed .write 0xFFFF 1 0).arg0.toNat + (failed .write 0xFFFF 1 0).arg1.toNat ≤ 2 ^ (failed .write 0xFFFF 1 0).param.aw)
    ∧ ((failed .read 1 0xFFFF 0).chan.err ≠ .clear ∧ (failed .read 1 0xFFFF 0).chan.dir = .read
      ∧ 1 ≤ (failed .read 1 0xFFFF 0).arg0.toNat ∧ (failed .read 1 0xFFFF 0).arg0.toNat ≤ 64
      ∧ (failed .read 1 0xFFFF 0).arg0.toNat + (failed .read 1 0xFFFF 0).arg1.toNat
          ≤ 2 ^ (failed .read 1 0xFFFF 0).param.aw) := by decide

theorem witness_WrongDirectionFaultsWithNoSession :
    ((base 0 65 0).faultCause = .none ∧ Instr.bcWbits ∈ [Instr.bcWbit, .bcWbits, .bcWnum, .bcFlush, .cxWhdr, .cxCompress]
      ∧ (base 0 65 0).chan.dir ≠ .write)
    ∧ ((failed .write 0 0 0).faultCause = .none ∧ Instr.cxDecompress ∈ [Instr.bcRbit, .bcRbits, .bcRnum, .cxRhdr, .cxDecompress]
      ∧ (failed .write 0 0 0).chan.dir ≠ .read) := by decide

/-- Each operand at the first value its check refuses. -/
theorem witness_OperandChecksFault :
    ((failed .write 0 65 0).faultCause = .none ∧ (failed .write 0 65 0).chan.dir = .write ∧ 64 < (failed .write 0 65 0).arg1.toNat)
    ∧ ((failed .write 0 0 0).chan.dir = .write ∧ (failed .write 0 0 0).arg1.toNat = 0)
    ∧ ((failed .read 65 0 0).faultCause = .none ∧ (failed .read 65 0 0).chan.dir = .read ∧ 64 < (failed .read 65 0 0).arg0.toNat)
    ∧ ((failed .read 0 0 0).chan.dir = .read ∧ (failed .read 0 0 0).arg0.toNat = 0)
    ∧ ((withHeap heap3 8).faultCause = .none ∧ 2 * 2 ^ (withHeap heap3 8).param.logN ≤ (withHeap heap3 8).arg0.toNat)
    ∧ ((withHeap heap3 4).faultCause = .none ∧ 2 ^ (withHeap heap3 4).param.logN ≤ (withHeap heap3 4).arg0.toNat)
    ∧ ((withHeap heap4 3).arg0.toNat < 2 ^ (withHeap heap4 3).param.logN
      ∧ (withHeap heap4 3).fhu.tableAt (withHeap heap4 3).arg0.toNat ≠ 0xFFFFFFFF#32)
    ∧ ((withHeap { heap3 with nc := 7#32 } 3).faultCause = .none
      ∧ (withHeap { heap3 with nc := 7#32 } 3).arg0.toNat < 2 ^ (withHeap { heap3 with nc := 7#32 } 3).param.logN
      ∧ (withHeap { heap3 with nc := 7#32 } 3).fhu.tableAt (withHeap { heap3 with nc := 7#32 } 3).arg0.toNat = 0xFFFFFFFF#32
      ∧ 2 * 2 ^ (withHeap { heap3 with nc := 7#32 } 3).param.logN
          < (withHeap { heap3 with nc := 7#32 } 3).fhu.nc.toNat
            + (if (withHeap { heap3 with nc := 7#32 } 3).fhu.nc.toNat < 2 then 1 else 2))
    ∧ ((session .write 0 0 [] [] 0xFFFF 2 10).faultCause = .none ∧ (session .write 0 0 [] [] 0xFFFF 2 10).chan.dir = .write
      ∧ 2 ^ (session .write 0 0 [] [] 0xFFFF 2 10).param.aw
          < (session .write 0 0 [] [] 0xFFFF 2 10).arg0.toNat + (session .write 0 0 [] [] 0xFFFF 2 10).arg1.toNat)
    ∧ ((session .read 0 0 [] [] 0x10000 1 10).faultCause = .none ∧ (session .read 0 0 [] [] 0x10000 1 10).chan.dir = .read
      ∧ 2 ^ (session .read 0 0 [] [] 0x10000 1 10).param.aw
          < (session .read 0 0 [] [] 0x10000 1 10).arg0.toNat + (session .read 0 0 [] [] 0x10000 1 10).arg1.toNat) := by
  decide

/-- A disordered heap whose merge wraps to 0, so that HEAP.ADD 3 leaves it disordered. -/
def wrapping : Fhu := heap [(20, -1), (1, 1), (2 ^ 63, 0), (2 ^ 63, 2)] [2, 1, 3, -1]

/-- An ordered heap whose root wraps to 1 when HEAP.INC 1 recomputes it. -/
def nearWrap : Fhu := heap [(2 ^ 64 - 1, -1), (2 ^ 63, 1), (2 ^ 63, 0), (1, 2)] [2, 1, 3, -1]

theorem fhuOk_wrapping : FhuOk small wrapping :=
  ⟨by decide, by decide, by decide, by decide, ⟨by decide, by decide⟩, deadClear_of (by decide) (by decide) (by decide), by decide⟩
theorem fhuOk_nearWrap : FhuOk small nearWrap :=
  ⟨by decide, by decide, by decide, by decide, ⟨by decide, by decide⟩, deadClear_of (by decide) (by decide) (by decide), by decide⟩

/-- A heap that `verify()` refuses after the command, with no fault recorded and DEBUG_VERIFY = 1, for both commands. -/
theorem witness_HeapAddAppendsMergeAndLeaf_violation :
    FhuOk (withHeap wrapping 3).param (withHeap wrapping 3).fhu ∧ (withHeap wrapping 3).arg0.toNat < (withHeap wrapping 3).param.n
    ∧ (withHeap wrapping 3).fhu.tableAt (withHeap wrapping 3).arg0.toNat = absent
    ∧ 4 = (withHeap wrapping 3).fhu.nc.toNat ∧ 0#64 = (withHeap wrapping 3).fhu.freqAt 2 + (withHeap wrapping 3).fhu.freqAt 3
    ∧ (withHeap wrapping 3).faultCause = .none ∧ (withHeap wrapping 3).param.debugVerify = true
    ∧ (ran .heapAdd (withHeap wrapping 3)).fhu.verify small = false :=
  ⟨fhuOk_wrapping, by decide, by decide, by decide, by decide, by decide, by decide, by decide⟩
theorem witness_HeapIncBumpsAndRecomputes_violation :
    FhuOk (withHeap nearWrap 1).param (withHeap nearWrap 1).fhu ∧ (withHeap nearWrap 1).fhu.Ordered
    ∧ (withHeap nearWrap 1).arg0.toNat < (withHeap nearWrap 1).param.n
    ∧ (withHeap nearWrap 1).fhu.tableAt (withHeap nearWrap 1).arg0.toNat ≠ absent
    ∧ 1 = ((withHeap nearWrap 1).fhu.tableAt (withHeap nearWrap 1).arg0.toNat).toNat
    ∧ (withHeap nearWrap 1).fhu.freqAt 1 ≠ 0xFFFFFFFFFFFFFFFF#64
    ∧ (withHeap nearWrap 1).faultCause = .none ∧ (withHeap nearWrap 1).param.debugVerify = true
    ∧ (ran .heapInc (withHeap nearWrap 1)).fhu.verify small = false :=
  ⟨fhuOk_nearWrap, ordered_of (by decide), by decide, by decide, by decide, by decide, by decide, by decide, by decide⟩

/-- The hypotheses of HeapAddAppendsMergeAndLeaf, those of its clause on where the nodes rest among them. -/
def Adds (s : State) (c : Nat) (sum : Word) : Prop :=
  FhuOk s.param s.fhu ∧ s.arg0.toNat < s.param.n ∧ s.fhu.tableAt s.arg0.toNat = absent ∧ c = s.fhu.nc.toNat
    ∧ sum = s.fhu.freqAt (c - 2) + s.fhu.freqAt (c - 1) ∧ (∀ k, k < c → s.fhu.freqAt k ≠ 0#64) ∧ (c < 2 ∨ sum ≠ 0#64)

/-- The first add, the last add, and the adds around the first merge (40_heap.md R111, example). -/
theorem witness_HeapAddAppendsMergeAndLeaf :
    Adds (withHeap heap0 3) 0 0#64 ∧ Adds (withHeap heap1 1) 1 2#64 ∧ (Adds (withHeap heap2 2) 2 2#64 ∧ heap2.Ordered)
    ∧ (Adds (withHeap heap3 3) 4 2#64 ∧ heap3.Ordered) :=
  ⟨⟨fhuOk_heap0, by decide, by decide, by decide, by decide, by decide, by decide⟩,
    ⟨fhuOk_heap1, by decide, by decide, by decide, by decide, by decide, by decide⟩,
    ⟨⟨fhuOk_heap2, by decide, by decide, by decide, by decide, by decide, by decide⟩, ordered_of (by decide)⟩,
    ⟨fhuOk_heap3, by decide, by decide, by decide, by decide, by decide, by decide⟩, ordered_heap3⟩

/-- A symbol in the last live node, which rises past its parent. -/
theorem witness_HeapIncBumpsAndRecomputes :
    FhuOk (withHeap heap3 2).param (withHeap heap3 2).fhu ∧ (withHeap heap3 2).fhu.Ordered
    ∧ (withHeap heap3 2).arg0.toNat < (withHeap heap3 2).param.n
    ∧ (withHeap heap3 2).fhu.tableAt (withHeap heap3 2).arg0.toNat ≠ absent
    ∧ 3 = ((withHeap heap3 2).fhu.tableAt (withHeap heap3 2).arg0.toNat).toNat
    ∧ (withHeap heap3 2).fhu.freqAt 3 ≠ 0xFFFFFFFFFFFFFFFF#64 :=
  ⟨fhuOk_heap3, ordered_heap3, by decide, by decide, by decide, by decide⟩

/-- The root, and the last live node. -/
theorem witness_HeapPathLeadsToTheIndex :
    ((withHeap heap1 0).arg0.toNat < (withHeap heap1 0).param.n
      ∧ (withHeap heap1 0).fhu.tableAt (withHeap heap1 0).arg0.toNat ≠ absent)
    ∧ ((withHeap heap4 3).arg0.toNat < (withHeap heap4 3).param.n
      ∧ (withHeap heap4 3).fhu.tableAt (withHeap heap4 3).arg0.toNat ≠ absent) := by decide

theorem witness_HeapPathOfAbsentSymbol :
    (withHeap heap3 3).arg0.toNat < 2 ^ (withHeap heap3 3).param.logN
    ∧ (withHeap heap3 3).fhu.tableAt (withHeap heap3 3).arg0.toNat = 0xFFFFFFFF#32 := by decide

theorem witness_HeapVerifyDecidesTheInvariants :
    ((withHeap heap4 0).fhu.Ordered ∧ (withHeap heap4 0).fhu.TableCorrect (withHeap heap4 0).param)
    ∧ ¬ (disordered.fhu.Ordered ∧ disordered.fhu.TableCorrect disordered.param) :=
  ⟨⟨ordered_heap4, by unfold Fhu.TableCorrect; decide⟩,
    fun h => absurd (h.1 1 3 (.inl rfl) (by decide)) (by decide)⟩

/-- The last index, and the first one refused. -/
theorem witness_HeapRdnodeReadsOneNode :
    ((withHeap heap3 7).arg0.toNat < 2 * 2 ^ (withHeap heap3 7).param.logN
      ∧ (withHeap heap3 7).fhu.freq[(withHeap heap3 7).arg0.toNat]? = some 0#64
      ∧ (withHeap heap3 7).fhu.sym[(withHeap heap3 7).arg0.toNat]? = some 0xFFFFFFFF#32)
    ∧ (2 * 2 ^ (withHeap heap3 8).param.logN ≤ (withHeap heap3 8).arg0.toNat
      ∧ (withHeap heap3 8).faultCause = .none) := by decide

theorem witness_HeapRdtabReadsOneEntry :
    ((withHeap heap3 3).arg0.toNat < 2 ^ (withHeap heap3 3).param.logN
      ∧ (withHeap heap3 3).fhu.table[(withHeap heap3 3).arg0.toNat]? = some 0xFFFFFFFF#32)
    ∧ (2 ^ (withHeap heap3 4).param.logN ≤ (withHeap heap3 4).arg0.toNat
      ∧ (withHeap heap3 4).faultCause = .none) := by decide

/-- The full heap. -/
theorem witness_HeapFullIsUnreachable :
    FhuOk (withHeap heap4 0).param (withHeap heap4 0).fhu ∧ (withHeap heap4 0).faultCause = .none
    ∧ exec .heapAdd (withHeap heap4 0) = .next (ran .heapAdd (withHeap heap4 0)) :=
  ⟨fhuOk_heap4, by decide, exec_ran (by decide)⟩

theorem witness_VerifyHoldsAfterEveryMutation :
    FhuOk (withHeap heap3 3).param (withHeap heap3 3).fhu ∧ (withHeap heap3 3).fhu.Ordered
    ∧ (withHeap heap3 3).fhu.FarFromWrap ∧ (Instr.heapAdd = .heapAdd ∨ Instr.heapAdd = .heapInc)
    ∧ exec .heapAdd (withHeap heap3 3) = .next (ran .heapAdd (withHeap heap3 3))
    ∧ (withHeap heap3 3).faultCause ≠ .invariantViolation :=
  ⟨fhuOk_heap3, ordered_heap3, farFromWrap_of (by decide) (by decide), by decide, exec_ran (by decide), by decide⟩

theorem witness_SessionOpenAndClose : faulted.chan.dir = .none ∧ (base 0 0 0).faultCause = .none := by decide

/-- CURSOR 63, and a full ACC with either answer. -/
theorem witness_WbitAppendsOneBit :
    ((session .write 0x7FFFFFFFFFFFFFFF 63 [] [] 1 0 0).chan.dir = .write ∧ (session .write 0x7FFFFFFFFFFFFFFF 63 [] [] 1 0 0).chan.Ok
      ∧ (session .write 0x7FFFFFFFFFFFFFFF 63 [] [] 1 0 0).chan.err = .clear
      ∧ (session .write 0x7FFFFFFFFFFFFFFF 63 [] [] 1 0 0).chan.cursor.toNat < 64)
    ∧ ((session .write 1 64 [.ok] [] 1 0 0).chan.Ok ∧ (session .write 1 64 [.ok] [] 1 0 0).chan.cursor.toNat = 64
      ∧ (session .write 1 64 [.ok] [] 1 0 0).chan.port.nextWrite = .ok)
    ∧ ((session .write 1 64 [.fail] [] 1 0 0).chan.Ok ∧ (session .write 1 64 [.fail] [] 1 0 0).chan.cursor.toNat = 64
      ∧ (session .write 1 64 [.fail] [] 1 0 0).chan.port.nextWrite = .fail) :=
  ⟨⟨by decide, chanOk_write (by decide) (by decide), by decide, by decide⟩,
    ⟨chanOk_write (by decide) (by decide), by decide, by decide⟩,
    chanOk_write (by decide) (by decide), by decide, by decide⟩

/-- 64 bits that just fit, and 64 bits that need a transaction, with either answer. -/
theorem witness_WbitsAppendsLowBits :
    ((session .write 0 0 [] [] 5 64 0).chan.dir = .write ∧ (session .write 0 0 [] [] 5 64 0).chan.Ok
      ∧ (session .write 0 0 [] [] 5 64 0).chan.err = .clear ∧ (session .write 0 0 [] [] 5 64 0).arg1.toNat ≤ 64
      ∧ (session .write 0 0 [] [] 5 64 0).chan.cursor.toNat + (session .write 0 0 [] [] 5 64 0).arg1.toNat ≤ 64)
    ∧ ((session .write 1 1 [.ok] [] 5 64 0).chan.Ok
      ∧ 64 < (session .write 1 1 [.ok] [] 5 64 0).chan.cursor.toNat + (session .write 1 1 [.ok] [] 5 64 0).arg1.toNat
      ∧ (session .write 1 1 [.ok] [] 5 64 0).chan.port.nextWrite = .ok)
    ∧ ((session .write 1 64 [.fail] [] 5 1 0).chan.Ok
      ∧ 64 < (session .write 1 64 [.fail] [] 5 1 0).chan.cursor.toNat + (session .write 1 64 [.fail] [] 5 1 0).arg1.toNat
      ∧ (session .write 1 64 [.fail] [] 5 1 0).chan.port.nextWrite = .fail) :=
  ⟨⟨by decide, chanOk_write (by decide) (by decide), by decide, by decide, by decide⟩,
    ⟨chanOk_write (by decide) (by decide), by decide, by decide⟩,
    chanOk_write (by decide) (by decide), by decide, by decide⟩

/-- The bits of a BC.WNUM: those pending and the code. -/
def numberBits (s : State) : List Bool := lowBits s.chan.acc s.chan.cursor.toNat ++ vlCode s.arg1.toNat s.arg0

/-- A writer with CURSOR 64 and a 128-bit code (95_test_vectors.md B1, last row), and one whose code just needs a word. -/
def twoWords (wa : List WriteAnswer) : State := session .write 0 64 wa [] (2 ^ 63) 1 0
def oneWord (wa : List WriteAnswer) : State := session .write 0 0 wa [] 5 64 0

theorem twoWords_length (wa : List WriteAnswer) : (numberBits (twoWords wa)).length = 192 :=
  show (numberBits (twoWords [])).length = 192 by decide +kernel

/-- The least and the greatest base: no transaction, one and two, each accepted and refused. -/
theorem witness_WnumAppendsTheNumberCode :
    ((session .write 0 0 [] [] 5 1 0).chan.dir = .write ∧ (session .write 0 0 [] [] 5 1 0).chan.Ok
      ∧ (session .write 0 0 [] [] 5 1 0).chan.err = .clear ∧ 1 ≤ (session .write 0 0 [] [] 5 1 0).arg1.toNat
      ∧ (session .write 0 0 [] [] 5 1 0).arg1.toNat ≤ 64 ∧ (numberBits (session .write 0 0 [] [] 5 1 0)).length ≤ 64)
    ∧ ((oneWord [.fail]).chan.Ok ∧ 64 < (numberBits (oneWord [.fail])).length ∧ (oneWord [.fail]).chan.port.nextWrite = .fail)
    ∧ ((oneWord [.ok]).chan.Ok ∧ 64 < (numberBits (oneWord [.ok])).length ∧ (numberBits (oneWord [.ok])).length ≤ 128
      ∧ (oneWord [.ok]).chan.port.nextWrite = .ok ∧ (oneWord [.ok]).arg1.toNat ≤ 64)
    ∧ ((twoWords [.ok, .fail]).chan.Ok ∧ 128 < (numberBits (twoWords [.ok, .fail])).length
      ∧ (twoWords [.ok, .fail]).chan.port.writeAnswers = .ok :: .fail :: [])
    ∧ ((twoWords [.ok, .ok]).chan.Ok ∧ 128 < (numberBits (twoWords [.ok, .ok])).length
      ∧ (twoWords [.ok, .ok]).chan.port.writeAnswers = .ok :: .ok :: []) :=
  ⟨⟨by decide, chanOk_write (by decide) (by decide), by decide, by decide, by decide, by decide⟩,
    ⟨chanOk_write (by decide) (by decide), by decide, by decide⟩,
    ⟨chanOk_write (by decide) (by decide), by decide, by decide, by decide, by decide⟩,
    ⟨chanOk_write (by decide) (by decide), by rw [twoWords_length]; decide, by decide⟩,
    chanOk_write (by decide) (by decide), by rw [twoWords_length]; decide, by decide⟩

/-- Nothing pending, one bit pending and accepted, a full word refused. -/
theorem witness_FlushPadsTheLastWord :
    ((session .write 0 0 [] [] 0 0 0).chan.dir = .write ∧ (session .write 0 0 [] [] 0 0 0).chan.Ok
      ∧ (session .write 0 0 [] [] 0 0 0).chan.err = .clear ∧ (session .write 0 0 [] [] 0 0 0).chan.cursor.toNat = 0)
    ∧ ((session .write 1 1 [.ok] [] 0 0 0).chan.Ok ∧ 0 < (session .write 1 1 [.ok] [] 0 0 0).chan.cursor.toNat
      ∧ (session .write 1 1 [.ok] [] 0 0 0).chan.port.nextWrite = .ok)
    ∧ ((session .write 1 64 [.fail] [] 0 0 0).chan.Ok ∧ 0 < (session .write 1 64 [.fail] [] 0 0 0).chan.cursor.toNat
      ∧ (session .write 1 64 [.fail] [] 0 0 0).chan.port.nextWrite = .fail) :=
  ⟨⟨by decide, chanOk_write (by decide) (by decide), by decide, by decide⟩,
    ⟨chanOk_write (by decide) (by decide), by decide, by decide⟩,
    chanOk_write (by decide) (by decide), by decide, by decide⟩

/-- The last bit of ACC, a fresh word, and a failing read. -/
theorem witness_RbitTakesTheNextBit :
    ((session .read 1 63 [] [] 0 0 0).chan.dir = .read ∧ (session .read 1 63 [] [] 0 0 0).chan.Ok
      ∧ (session .read 1 63 [] [] 0 0 0).chan.err = .clear ∧ (session .read 1 63 [] [] 0 0 0).chan.unread = false :: [])
    ∧ ((session .read 1 0 [] [.word 1] 0 0 0).chan.Ok
      ∧ (session .read 1 0 [] [.word 1] 0 0 0).chan.unread = true :: List.replicate 63 false)
    ∧ ((session .read 1 0 [] [.fail] 0 0 0).chan.Ok ∧ (session .read 1 0 [] [.fail] 0 0 0).chan.cursor.toNat = 0
      ∧ (session .read 1 0 [] [.fail] 0 0 0).chan.port.nextRead = .fail) :=
  ⟨⟨by decide, chanOk_read (by decide) (by decide), by decide, by decide⟩,
    ⟨chanOk_read (by decide) (by decide), by decide⟩,
    chanOk_read (by decide) (by decide), by decide, by decide⟩

/-- 64 bits across two words. -/
theorem witness_RbitsTakesTheNextBits :
    (session .read 1 63 [] [.word 7] 64 0 0).chan.dir = .read ∧ (session .read 1 63 [] [.word 7] 64 0 0).chan.Ok
    ∧ (session .read 1 63 [] [.word 7] 64 0 0).chan.err = .clear ∧ (session .read 1 63 [] [.word 7] 64 0 0).arg0.toNat ≤ 64
    ∧ (session .read 1 63 [] [.word 7] 64 0 0).arg0.toNat ≤ (session .read 1 63 [] [.word 7] 64 0 0).chan.unread.length :=
  ⟨by decide, chanOk_read (by decide) (by decide), by decide, by decide, by decide⟩

/-- A read session at the start of its words, with a numeric base. -/
def numbers (ws : List Word) (b : Nat) : State := session .read 0 0 [] (ws.map .word) b 0 0

theorem numbers_ok (ws : List Word) (b : Nat) : (numbers ws b).chan.Ok := chanOk_read rfl (show (0#7).toNat < 64 by decide)

theorem chunksFit_of {b : Nat} {as : List Word} (v : Nat) (h : ∀ a ∈ as, a.toNat < 2 ^ b) (hv : chunksValue b as = v)
    (hl : v < 2 ^ 64) : ChunksFit b as := ⟨h, hv ▸ hl⟩

/-- Number fields whose chunks fit: 5 and a redundant 0, 21 sevens and 22 zeros in base 3, one chunk in bases 60 and 64. -/
theorem fits_redundant : ChunksFit 3 ([5#64] ++ [0#64]) := chunksFit_of 5 (by simp) (by simp [chunksValue]) (by norm_num)
theorem fits_sevens : ChunksFit 3 (List.replicate 21 7#64) := chunksFit_of (2 ^ 63 - 1) (by simp) (by simp [chunksValue, List.replicate]) (by norm_num)
theorem fits_zeros : ChunksFit 3 (List.replicate 22 0#64) := chunksFit_of 0 (by simp) (by simp [chunksValue, List.replicate]) (by norm_num)
theorem fits_base60 : ChunksFit 60 [0x0FFFFFFFFFFFFFFF#64] := chunksFit_of 0x0FFFFFFFFFFFFFFF (by simp) (by simp [chunksValue]) (by norm_num)
theorem fits_base64 : ChunksFit 64 [7#64] := chunksFit_of 7 (by simp) (by simp [chunksValue]) (by norm_num)

/-- The least base (95_test_vectors.md B1: 5 in base 1 is `0x1B`), the greatest, and a redundant zero chunk (B2, first row). -/
theorem witness_RnumReadsTheNumberCode :
    ((numbers [0x1B] 1).chan.dir = .read ∧ (numbers [0x1B] 1).chan.Ok ∧ (numbers [0x1B] 1).chan.err = .clear
      ∧ 1 ≤ (numbers [0x1B] 1).arg0.toNat ∧ (numbers [0x1B] 1).arg0.toNat ≤ 64
      ∧ (numbers [0x1B] 1).chan.unread = vlCode (numbers [0x1B] 1).arg0.toNat 5#64 ++ List.replicate 58 false)
    ∧ ((numbers [9, 0] 64).arg0.toNat ≤ 64
      ∧ (numbers [9, 0] 64).chan.unread = vlCode (numbers [9, 0] 64).arg0.toNat 9#64 ++ List.replicate 63 false)
    ∧ (ChunksFit (numbers [0xD] 3).arg0.toNat ([5#64] ++ [0#64]) ∧ [5#64].length * (numbers [0xD] 3).arg0.toNat < 64
      ∧ (numbers [0xD] 3).chan.unread
          = contChunks (numbers [0xD] 3).arg0.toNat [5#64]
            ++ lowBits 0#64 (numbers [0xD] 3).arg0.toNat ++ false :: List.replicate 56 false) :=
  ⟨⟨by decide, numbers_ok _ _, by decide, by decide, by decide, by decide⟩,
    ⟨by decide, by decide⟩, fits_redundant, by decide, by decide⟩

/-- Base 3 (95_test_vectors.md B2, third row: 21 chunks of 7, then chunk 2), base 60 (last row), and continuation 1 after the
chunk that reaches shift 64, in base 3 (fourth row: zero chunks) and in base 64. -/
theorem witness_RnumRefusesAnOverflowingChunk :
    ((numbers [0xFFFFFFFFFFFFFFFF, 0x2FFFFF] 3).chan.dir = .read ∧ (numbers [0xFFFFFFFFFFFFFFFF, 0x2FFFFF] 3).chan.Ok
      ∧ (numbers [0xFFFFFFFFFFFFFFFF, 0x2FFFFF] 3).chan.err = .clear
      ∧ 1 ≤ (numbers [0xFFFFFFFFFFFFFFFF, 0x2FFFFF] 3).arg0.toNat ∧ (numbers [0xFFFFFFFFFFFFFFFF, 0x2FFFFF] 3).arg0.toNat ≤ 64
      ∧ OverflowingChunk (numbers [0xFFFFFFFFFFFFFFFF, 0x2FFFFF] 3).arg0.toNat
          (numbers [0xFFFFFFFFFFFFFFFF, 0x2FFFFF] 3).chan.unread (List.replicate 41 false))
    ∧ OverflowingChunk (numbers [0x1FFFFFFFFFFFFFFF, 2] 60).arg0.toNat (numbers [0x1FFFFFFFFFFFFFFF, 2] 60).chan.unread
        (List.replicate 7 false)
    ∧ ExcessContinuation (numbers [0x8888888888888888, 0x8888888888888888] 3).arg0.toNat
        (numbers [0x8888888888888888, 0x8888888888888888] 3).chan.unread ((wordBits 0x8888888888888888#64).drop 24)
    ∧ ((numbers [7, 1] 64).arg0.toNat ≤ 64
      ∧ ExcessContinuation (numbers [7, 1] 64).arg0.toNat (numbers [7, 1] 64).chan.unread (List.replicate 63 false)) :=
  ⟨⟨by decide, numbers_ok _ _, by decide, by decide, by decide,
      List.replicate 21 7#64, 2#64, fits_sevens, by decide, by decide, by norm_num [numbers, session, base], by decide +kernel⟩,
    ⟨[0x0FFFFFFFFFFFFFFF#64], 0x10#64, fits_base60, by decide, by decide, by norm_num [numbers, session, base], by decide +kernel⟩,
    ⟨List.replicate 22 0#64, fits_zeros, by decide, by decide, by decide, by decide +kernel⟩,
    by decide, [7#64], fits_base64, by decide, by decide, by decide, by decide +kernel⟩

/-- A read that fails at once, one that fails after some bits, and a number whose second word is refused. -/
theorem witness_FailedReadsGiveZero :
    ((session .read 1 0 [] [.fail] 0 0 0).chan.dir = .read
      ∧ (ran .bcRbit (session .read 1 0 [] [.fail] 0 0 0)).chan.err ≠ .clear
      ∧ exec .bcRbit (session .read 1 0 [] [.fail] 0 0 0) = .next (ran .bcRbit (session .read 1 0 [] [.fail] 0 0 0)))
    ∧ ((session .read 1 60 [] [.fail] 64 0 0).arg0.toNat ≤ 64
      ∧ (ran .bcRbits (session .read 1 60 [] [.fail] 64 0 0)).chan.err ≠ .clear
      ∧ exec .bcRbits (session .read 1 60 [] [.fail] 64 0 0) = .next (ran .bcRbits (session .read 1 60 [] [.fail] 64 0 0)))
    ∧ (1 ≤ (session .read 1 60 [] [.fail] 64 0 0).arg0.toNat
      ∧ (ran .bcRnum (session .read 1 60 [] [.fail] 64 0 0)).chan.err ≠ .clear
      ∧ exec .bcRnum (session .read 1 60 [] [.fail] 64 0 0) = .next (ran .bcRnum (session .read 1 60 [] [.fail] 64 0 0))) :=
  ⟨⟨by decide, by decide, exec_ran (by decide)⟩, ⟨by decide, by decide +kernel, exec_ran (by decide +kernel)⟩,
    by decide, by decide +kernel, exec_ran (by decide +kernel)⟩

/-- The hypotheses of FailedReadsGiveZero on a read that the host refuses. -/
def Refused (s : State) (ws : List Word) : Prop :=
  s.chan.dir = .read ∧ s.chan.Ok ∧ s.chan.err = .clear ∧ s.arg0.toNat ≤ 64 ∧ s.chan.port.readAnswers = ws.map .word ++ .fail :: []

/-- BC.RBITS refused at once (95_test_vectors.md B4, third row) and one bit short; BC.RNUM refused at once, after the continuation bit
of its first chunk, and before that of its one chunk of 64 bits. -/
theorem witness_FailedReadsGiveZero_refused :
    (Refused (session .read 0 0 [] [.fail] 16 0 0) [] ∧ (session .read 0 0 [] [.fail] 16 0 0).chan.unread.length < 16)
    ∧ (Refused (session .read 1 1 [] [.fail] 64 0 0) [] ∧ (session .read 1 1 [] [.fail] 64 0 0).chan.unread.length < 64)
    ∧ (Refused (session .read 0 0 [] [.fail] 1 0 0) [] ∧ CutNumber 1 (session .read 0 0 [] [.fail] 1 0 0).chan.unread)
    ∧ (Refused (session .read (0b1101#64 <<< 60) 60 [] [.fail] 3 0 0) []
      ∧ CutNumber 3 (session .read (0b1101#64 <<< 60) 60 [] [.fail] 3 0 0).chan.unread)
    ∧ (Refused (session .read 0 0 [] [.word 9, .fail] 64 0 0) [9]
      ∧ CutNumber 64 (session .read 0 0 [] [.word 9, .fail] 64 0 0).chan.unread) :=
  ⟨⟨⟨by decide, chanOk_read (by decide) (by decide), by decide, by decide, by decide⟩, by decide⟩,
    ⟨⟨by decide, chanOk_read (by decide) (by decide), by decide, by decide, by decide⟩, by decide⟩,
    ⟨⟨by decide, chanOk_read (by decide) (by decide), by decide, by decide, by decide⟩,
      [], [], chunksFit_of 0 (by simp) rfl (by norm_num), by decide, by decide, .inl (by decide)⟩,
    ⟨⟨by decide, chanOk_read (by decide) (by decide), by decide, by decide, by decide⟩,
      [5#64], [], chunksFit_of 5 (by simp) (by simp [chunksValue]) (by norm_num), by decide, by decide, .inl (by decide)⟩,
    ⟨by decide, chanOk_read (by decide) (by decide), by decide, by decide, by decide⟩,
    [], wordBits 9#64, chunksFit_of 0 (by simp) rfl (by norm_num), by decide, by decide,
    .inr ⟨9#64, chunksFit_of 9 (by simp) (by simp [chunksValue]) (by norm_num), rfl⟩⟩

/-- 300 in base 3, written and flushed (95_test_vectors.md B1, fifth row), and the reader of its one word. -/
def numberWriter : State := session .write 0 0 [.ok] [] 300 3 0
def numberWritten : State := ran .bcWnum numberWriter
def numberFlushed : State := ran .bcFlush numberWritten
def numberReader : State := session .read 0 0 [] [.word 0x4DC] 3 0 0

theorem witness_NumberRoundTrip :
    numberWriter.chan.dir = .write ∧ numberWriter.chan.Ok ∧ numberWriter.chan.cursor = 0#7 ∧ numberWriter.chan.err = .clear
    ∧ 1 ≤ numberWriter.arg1.toNat ∧ numberWriter.arg1.toNat ≤ 64
    ∧ exec .bcWnum numberWriter = .next numberWritten ∧ exec .bcFlush numberWritten = .next numberFlushed
    ∧ numberFlushed.chan.err = .clear
    ∧ acceptedWords numberFlushed.chan.port.trace = acceptedWords numberWriter.chan.port.trace ++ [0x4DC#64]
    ∧ numberReader.chan.dir = .read ∧ numberReader.chan.cursor = 0#7 ∧ numberReader.chan.err = .clear
    ∧ numberReader.arg0 = numberWriter.arg1
    ∧ numberReader.chan.port.readAnswers = [0x4DC#64].map .word ++ [] :=
  ⟨by decide, chanOk_write (by decide) (by decide), by decide, by decide, by decide, by decide, exec_ran (by decide),
    exec_ran (by decide), by decide, by decide, by decide, by decide, by decide, by decide, by decide⟩

/-- windowBits 9 and 21 refused, 10 and 20 written, with the first word refused and accepted. -/
theorem witness_WhdrWritesTheHeader :
    ((session .write 0 0 [] [] 5 9 0).chan.dir = .write ∧ (session .write 0 0 [] [] 5 9 0).chan.err = .clear
      ∧ ¬ (10 ≤ (session .write 0 0 [] [] 5 9 0).arg1.toNat ∧ (session .write 0 0 [] [] 5 9 0).arg1.toNat ≤ 20))
    ∧ ¬ (10 ≤ (session .write 0 0 [] [] 5 21 0).arg1.toNat ∧ (session .write 0 0 [] [] 5 21 0).arg1.toNat ≤ 20)
    ∧ (10 ≤ (session .write 0 0 [.fail] [] 5 10 0).arg1.toNat ∧ (session .write 0 0 [.fail] [] 5 10 0).arg1.toNat ≤ 20
      ∧ (session .write 0 0 [.fail] [] 5 10 0).chan.port.nextWrite = .fail)
    ∧ (10 ≤ (session .write 0 0 [.ok, .fail] [] 5 20 0).arg1.toNat ∧ (session .write 0 0 [.ok, .fail] [] 5 20 0).arg1.toNat ≤ 20
      ∧ (session .write 0 0 [.ok, .fail] [] 5 20 0).chan.port.nextWrite = .ok
      ∧ (session .write 0 0 [.ok, .fail] [] 5 20 0).chan.port.writeAnswers = .ok :: .fail :: []) := by decide

theorem witness_RhdrReadsTheHeader :
    ((session .read 0 0 [] [.word 5, .word 21] 0 0 0).chan.dir = .read
      ∧ (session .read 0 0 [] [.word 5, .word 21] 0 0 0).chan.err = .clear
      ∧ (session .read 0 0 [] [.word 5, .word 21] 0 0 0).chan.port.readAnswers = .word 5 :: .word 21 :: [])
    ∧ (session .read 0 0 [] [.word 5, .word 20] 0 0 0).chan.port.readAnswers = .word 5 :: .word 20 :: []
    ∧ (session .read 0 0 [] [.word 5, .fail] 0 0 0).chan.port.readAnswers = .word 5 :: .fail :: []
    ∧ (session .read 0 0 [] [.fail] 0 0 0).chan.port.readAnswers = .fail :: [] := by decide

/-- windowBits 10, and the empty buffer at the end of DMEM with windowBits 20 and the first word refused. -/
theorem witness_CompressCompletes :
    (compressing.chan.dir = .write ∧ compressing.chan.err = .clear
      ∧ compressing.arg0.toNat + compressing.arg1.toNat ≤ 2 ^ compressing.param.aw ∧ 10 ≤ compressing.arg2.toNat
      ∧ compressing.arg2.toNat ≤ 20)
    ∧ ((session .write 0 0 [.fail] [] 0x10000 0 20).arg0.toNat + (session .write 0 0 [.fail] [] 0x10000 0 20).arg1.toNat
          ≤ 2 ^ (session .write 0 0 [.fail] [] 0x10000 0 20).param.aw
      ∧ (session .write 0 0 [.fail] [] 0x10000 0 20).arg2.toNat ≤ 20
      ∧ (session .write 0 0 [.fail] [] 0x10000 0 20).chan.port.nextWrite = .fail) := by decide

theorem chosen_literal {p : Params} {m : Memory} {src n w i : Nat} {b : Byte} {ts : List Token} (hi : i < n)
    (hq : ¬ 2 < (findMatch p m src n i w).2) (hb : b = m.byte (src + i)) (h : Chosen p m src n w (i + 1) ts) :
    Chosen p m src n w i (.literal b :: ts) := ⟨hi, by rw [if_neg hq]; exact ⟨by rw [hb], h⟩⟩
theorem chosen_backRef {p : Params} {m : Memory} {src n w i pos len : Nat} {ts : List Token} (hi : i < n)
    (hq : findMatch p m src n i w = (pos, len)) (hl : 2 < len) (h : Chosen p m src n w (i + len) ts) :
    Chosen p m src n w i (.backRef (BitVec.ofNat 64 pos) (BitVec.ofNat 64 len) :: ts) := by
  refine ⟨hi, ?_⟩; rw [hq, if_pos hl]; exact ⟨rfl, h⟩

/-- `"aaaaaa"` and nine different letters, with the tokens the rules choose for them at windowBits 10: 26 bits and 72 bits. -/
def sixTokens : List Token := [.literal 0x61, .literal 0x61, .backRef 1 4]
def nineBytes : Memory := (List.range 9).map (fun k => (k, BitVec.ofNat 8 (0x61 + k)))
def eightTokens : List Token := (List.range 8).map (fun k => .literal (BitVec.ofNat 8 (0x61 + k)))
def six (wa : List WriteAnswer) : State := { session .write 0 0 wa [] 0x100 6 10 with dmem := sixA }
def nine (wa : List WriteAnswer) : State := { session .write 0 0 wa [] 0 9 10 with dmem := nineBytes }

theorem chosen_six : Chosen small sixA 0x100 6 1024 0 sixTokens :=
  chosen_literal (by decide) (by decide) (by decide) (chosen_literal (by decide) (by decide) (by decide)
    (chosen_backRef (pos := 1) (len := 4) (by decide) (by decide) (by decide) rfl))

theorem chosen_nine : Chosen small nineBytes 0 9 1024 0 (eightTokens ++ .literal 0x69 :: []) := by
  show Chosen _ _ _ _ _ _ [.literal 0x61, .literal 0x62, .literal 0x63, .literal 0x64, .literal 0x65, .literal 0x66, .literal 0x67,
    .literal 0x68, .literal 0x69]
  iterate 9 refine chosen_literal (by decide) (by decide) (by decide) ?_
  rfl

/-- The second header word refused; all words accepted; the only payload word refused by the flush; and the first of two refused, with
the ninth literal's first bit the next one (the clauses on the host's answers of CompressCompletes). -/
theorem witness_CompressCompletes_answers :
    (six [.ok, .fail]).chan.port.writeAnswers = .ok :: .fail :: []
    ∧ (Chosen compressing.param compressing.dmem compressing.arg0.toNat compressing.arg1.toNat (2 ^ compressing.arg2.toNat) 0 sixTokens
      ∧ (sixTokens.flatMap (Token.code ((compressing.arg2.toNat - 4) / 2))).length ≤ 64 * 1
      ∧ compressing.chan.port.writeAnswers = .ok :: .ok :: List.replicate 1 .ok ++ [])
    ∧ ((six [.ok, .ok, .fail]).chan.port.writeAnswers = .ok :: .ok :: List.replicate 0 .ok ++ .fail :: []
      ∧ 64 * 0 < (sixTokens.flatMap (Token.code ((compressing.arg2.toNat - 4) / 2))).length
      ∧ (sixTokens.flatMap (Token.code ((compressing.arg2.toNat - 4) / 2))).length ≤ 64 * (0 + 1))
    ∧ ((nine [.ok, .ok, .fail]).chan.dir = .write ∧ (nine [.ok, .ok, .fail]).chan.err = .clear
      ∧ (nine [.ok, .ok, .fail]).arg0.toNat + (nine [.ok, .ok, .fail]).arg1.toNat ≤ 2 ^ (nine [.ok, .ok, .fail]).param.aw
      ∧ (nine [.ok, .ok, .fail]).arg2.toNat = 10
      ∧ Chosen (nine [.ok, .ok, .fail]).param (nine [.ok, .ok, .fail]).dmem (nine [.ok, .ok, .fail]).arg0.toNat
          (nine [.ok, .ok, .fail]).arg1.toNat (2 ^ (nine [.ok, .ok, .fail]).arg2.toNat) 0 (eightTokens ++ .literal 0x69 :: [])
      ∧ (nine [.ok, .ok, .fail]).chan.port.writeAnswers = .ok :: .ok :: List.replicate 0 .ok ++ .fail :: []
      ∧ (eightTokens.flatMap (Token.code 3)).length ≤ 64 * (0 + 1)
      ∧ 64 * (0 + 1) < ((eightTokens ++ [Token.literal 0x69]).flatMap (Token.code 3)).length) :=
  ⟨rfl, ⟨chosen_six, by decide, by decide⟩, ⟨by decide, by decide, by decide⟩, by decide, by decide, by decide, by decide, chosen_nine, by decide,
    by decide, by decide⟩

theorem witness_CompressWritesTokensThatSpellTheInput :
    compressing.chan.dir = .write ∧ compressing.chan.err = .clear
    ∧ compressing.arg0.toNat + compressing.arg1.toNat ≤ 2 ^ compressing.param.aw ∧ 10 ≤ compressing.arg2.toNat
    ∧ compressing.arg2.toNat ≤ 20 ∧ exec .cxCompress compressing = .next (ran .cxCompress compressing)
    ∧ (ran .cxCompress compressing).chan.err = .clear :=
  ⟨by decide, by decide, by decide, by decide, by decide, exec_ran (by decide), by decide⟩

/-- A read session for CX.DECOMPRESS to 0x200 with room for 256 bytes at windowBits 10, with its answers. -/
def decoding (ra : List ReadAnswer) : State := session .read 0 0 [] ra 0x200 0x100 10

/-- The hypotheses on the header and the stream of DecompressCompletes, at base 3 and window 1024. -/
def Decodes (s : State) (nh : Word) (answers : List ReadAnswer) (tokens : List Token) (rest : List Bool) (e : Err) : Prop :=
  (s.chan.dir = .read ∧ s.chan.err = .clear ∧ s.arg0.toNat + s.arg1.toNat ≤ 2 ^ s.param.aw ∧ 10 ≤ s.arg2.toNat ∧ s.arg2.toNat ≤ 20)
  ∧ s.chan.port.readAnswers = .word nh :: .word s.arg2 :: answers ∧ nh.toNat ≤ s.arg1.toNat
  ∧ (listedWords answers).flatMap wordBits = tokens.flatMap (Token.code ((s.arg2.toNat - 4) / 2)) ++ rest
  ∧ ValidTokens nh.toNat (2 ^ s.arg2.toNat) 0 tokens
  ∧ StreamEnds ((s.arg2.toNat - 4) / 2) nh.toNat (2 ^ s.arg2.toNat) (cursorAfter 0 tokens) answers rest e

/-- 95_test_vectors.md X3 rows 2, 5, 13, 14 and 15: a stream read to its end, a match that starts before the output, a payload read
that fails, and the header reads failing; and a distance whose second-last chunk overflows. -/
theorem witness_DecompressCompletes :
    Decodes (decoding [.word 8, .word 10, .word 0x1C7F4]) 8 [.word 0x1C7F4] [.literal 0x7A, .backRef 1 7] (List.replicate 46 false)
      .clear
    ∧ Decodes (decoding [.word 4, .word 10, .word 0xCBC2]) 4 [.word 0xCBC2] [.literal 0x61]
        (Token.code 3 (.backRef 2 3) ++ List.replicate 46 false) .invalidParameter
    ∧ Decodes (decoding [.word 3, .word 10, .word 0xFFFFFFFFFFFFFFFF, .word 0xBFFFFF]) 3
        [.word 0xFFFFFFFFFFFFFFFF, .word 0xBFFFFF] []
        ([true, true] ++ (contChunks 3 (List.replicate 21 7#64) ++ lowBits 2#64 3 ++ List.replicate 39 false)) .invalidParameter
    ∧ Decodes (decoding [.word 3, .word 10, .fail]) 3 [.fail] [] [] .ioFailure
    ∧ (decoding [.word 3, .fail]).chan.port.readAnswers = .word 3 :: .fail :: []
    ∧ (decoding [.fail]).chan.port.nextRead = .fail := by
  refine ⟨⟨by decide, by decide, by decide, by decide +kernel, ?_, ?_⟩, ⟨by decide, by decide, by decide, by decide +kernel, ?_, ?_⟩,
    ⟨by decide, by decide, by decide, by decide +kernel, ?_, ?_⟩, ⟨by decide, by decide, by decide, by decide, ?_, ?_⟩, by decide,
    by decide⟩
  · simp [ValidTokens, ValidMatch, decoding, session, base]
  · show cursorAfter 0 [.literal 0x7A, .backRef 1 7] = 8
    decide
  · simp [ValidTokens]
  · exact ⟨by decide, List.replicate 46 false, .inl ⟨2, 3, rfl, by simp [ValidMatch, cursorAfter]⟩⟩
  · simp [ValidTokens]
  · exact ⟨by decide, List.replicate 39 false, .inr ⟨_, .inl ⟨List.replicate 21 7#64, 2#64, fits_sevens, by decide,
      by decide, by norm_num [decoding, session, base], rfl⟩, .inl rfl⟩⟩
  · simp [ValidTokens]
  · exact ⟨by decide, ⟨.literal 0x61, Token.code 3 (.literal 0x61), by decide, rfl⟩, [], [], rfl⟩

/-- A windowBits that is legal but not ARG2, and a count one above the capacity. -/
theorem witness_DecompressRejectsAForeignHeader :
    ((session .read 0 0 [] [.word 3, .word 11] 0x200 6 10).chan.dir = .read
      ∧ (session .read 0 0 [] [.word 3, .word 11] 0x200 6 10).chan.err = .clear
      ∧ (session .read 0 0 [] [.word 3, .word 11] 0x200 6 10).arg0.toNat + (session .read 0 0 [] [.word 3, .word 11] 0x200 6 10).arg1.toNat
          ≤ 2 ^ (session .read 0 0 [] [.word 3, .word 11] 0x200 6 10).param.aw
      ∧ 10 ≤ (session .read 0 0 [] [.word 3, .word 11] 0x200 6 10).arg2.toNat
      ∧ (session .read 0 0 [] [.word 3, .word 11] 0x200 6 10).arg2.toNat ≤ 20
      ∧ (session .read 0 0 [] [.word 3, .word 11] 0x200 6 10).chan.port.readAnswers = .word 3#64 :: .word 11#64 :: []
      ∧ 11#64 ≠ (session .read 0 0 [] [.word 3, .word 11] 0x200 6 10).arg2)
    ∧ ((session .read 0 0 [] [.word 7, .word 10] 0x200 6 10).chan.port.readAnswers = .word 7#64 :: .word 10#64 :: []
      ∧ (session .read 0 0 [] [.word 7, .word 10] 0x200 6 10).arg1.toNat < (7#64 : Word).toNat) := by decide

/-- `M(1,4)` at base 3, and `L(0xFF)` (95_test_vectors.md 2.3: `0x107` and `0x1FD`). -/
theorem witness_DecodeTokenReadsTheTokenCode :
    ((session .read 0 0 [] [.word 0x107] 0 0 0).chan.dir = .read ∧ (session .read 0 0 [] [.word 0x107] 0 0 0).chan.Ok
      ∧ (session .read 0 0 [] [.word 0x107] 0 0 0).chan.err = .clear ∧ 1 ≤ 3 ∧ 3 ≤ 64
      ∧ (session .read 0 0 [] [.word 0x107] 0 0 0).chan.unread = Token.code 3 (.backRef 1#64 4#64) ++ List.replicate 54 false)
    ∧ (session .read 0 0 [] [.word 0x1FD] 0 0 0).chan.unread = Token.code 64 (.literal 0xFF#8) ++ List.replicate 55 false :=
  ⟨⟨by decide, chanOk_read (by decide) (by decide), by decide, by decide, by decide, by decide⟩, by decide⟩

theorem witness_IllegalWindowBitsMakesNoTransaction :
    ((session .write 0 0 [] [] 0 1 9).chan.err = .clear
      ∧ (session .write 0 0 [] [] 0 1 9).arg0.toNat + (session .write 0 0 [] [] 0 1 9).arg1.toNat
          ≤ 2 ^ (session .write 0 0 [] [] 0 1 9).param.aw
      ∧ ¬ (10 ≤ (session .write 0 0 [] [] 0 1 9).arg2.toNat ∧ (session .write 0 0 [] [] 0 1 9).arg2.toNat ≤ 20)
      ∧ (session .write 0 0 [] [] 0 1 9).chan.dir = .write)
    ∧ ((session .read 0 0 [] [] 0 1 21).chan.err = .clear
      ∧ (session .read 0 0 [] [] 0 1 21).arg0.toNat + (session .read 0 0 [] [] 0 1 21).arg1.toNat
          ≤ 2 ^ (session .read 0 0 [] [] 0 1 21).param.aw
      ∧ ¬ (10 ≤ (session .read 0 0 [] [] 0 1 21).arg2.toNat ∧ (session .read 0 0 [] [] 0 1 21).arg2.toNat ≤ 20)
      ∧ (session .read 0 0 [] [] 0 1 21).chan.dir = .read) := by decide

theorem witness_CodecRoundTrip :
    compressing.chan.dir = .write ∧ compressing.chan.err = .clear
    ∧ compressing.arg0.toNat + compressing.arg1.toNat ≤ 2 ^ compressing.param.aw ∧ 10 ≤ compressing.arg2.toNat
    ∧ compressing.arg2.toNat ≤ 20 ∧ exec .cxCompress compressing = .next (ran .cxCompress compressing)
    ∧ (ran .cxCompress compressing).chan.err = .clear
    ∧ acceptedWords (ran .cxCompress compressing).chan.port.trace
        = acceptedWords compressing.chan.port.trace ++ [6#64, 10#64, 0x107C2C2#64]
    ∧ decompressing.chan.dir = .read ∧ decompressing.chan.err = .clear
    ∧ decompressing.arg0.toNat + decompressing.arg1.toNat ≤ 2 ^ decompressing.param.aw
    ∧ decompressing.arg2 = compressing.arg2 ∧ compressing.arg1.toNat ≤ decompressing.arg1.toNat
    ∧ decompressing.chan.port.readAnswers = [6#64, 10#64, 0x107C2C2#64].map .word ++ [] :=
  ⟨by decide, by decide, by decide, by decide, by decide, exec_ran (by decide), by decide,
    by decide, by decide, by decide, by decide, by decide, by decide, by decide⟩

/-- No candidate at cursor 0, and the match `M(1,4)` of `"aaaaaa"` at cursor 2 (95_test_vectors.md X1 row 9). -/
theorem witness_FindMatchKeepsALongestRun :
    (0 < 6 ∧ findMatch small sixA 0x100 6 0 1024 = (0, 0)) ∧ (2 < 6 ∧ findMatch small sixA 0x100 6 2 1024 = (1, 4) ∧ 0 < 4) := by
  decide

theorem witness_MatchCopyRepeatsThePrecedingBytes : 0 < 1 ∧ 1 ≤ 1 := by decide

theorem witness_StepKeepsDmemCanonical :
    (about (.memWrite 0xFFFF 1#8) compressing).MemOk
    ∧ step (about (.memWrite 0xFFFF 1#8) compressing) = .next { compressing with dmem := compressing.dmem.write 0xFFFF 1#8 } :=
  ⟨⟨by decide, by decide⟩, rfl⟩

theorem witness_StepKeepsTheSessionWellFormed :
    (about (.regWrite 64 0x40000008 0x22#64) compressing).SessionOk
    ∧ step (about (.regWrite 64 0x40000008 0x22#64) compressing)
        = .next ((after (step (about (.regWrite 64 0x40000008 0x22#64) compressing)) id).getD compressing) :=
  ⟨⟨rfl, chanOk_write (by decide) (by decide), fun _ => rfl⟩, next_after compressing (by decide)⟩

theorem witness_StepKeepsTheHeapStructure :
    FhuOk (about (.regWrite 64 0x40000010 3#64) (withHeap heap3 0)).param (about (.regWrite 64 0x40000010 3#64) (withHeap heap3 0)).fhu
    ∧ step (about (.regWrite 64 0x40000010 3#64) (withHeap heap3 0)) = .next (withHeap heap3 3) :=
  ⟨fhuOk_heap3, rfl⟩

theorem witness_InvariantsHoldAfterReset : small.wf = true := by decide

end Sys2Proof.Tests
end

section
/-! What a command can do, said once for all 21: the primitives a session command is made of, the shapes of a command's
end, and the frame of every step. The invariants and frames of the obligations are read off these. -/
namespace Sys2Proof.Machine

/-! ## The primitives of a session -/

/-- `d` is reached from `c` by the primitives of a write session (41_bitchannel.md R140 to R143, 42_codec.md R171, R182). -/
inductive Channel.Writes (c : Channel) : Channel → Prop
  | refl : Channel.Writes c c
  | bit {d : Channel} (b : Bool) : Channel.Writes c d → Channel.Writes c (writeBit b d)
  | word {d : Channel} (w : Word) : Channel.Writes c d → Channel.Writes c (portWrite w d)
  | flush {d : Channel} : Channel.Writes c d → Channel.Writes c (flush d)
  | setErr {d : Channel} (e : Err) : Channel.Writes c d → Channel.Writes c (d.setErr e)
  | fresh {d : Channel} : Channel.Writes c d → Channel.Writes c d.fresh

/-- `d` is reached from `c` by the primitives of a read session (41_bitchannel.md R144 to R146, 42_codec.md R172, R183). -/
inductive Channel.Reads (c : Channel) : Channel → Prop
  | refl : Channel.Reads c c
  | bit {d : Channel} : Channel.Reads c d → Channel.Reads c (readBit d).2
  | word {d : Channel} : Channel.Reads c d → Channel.Reads c (portRead d).2
  | setErr {d : Channel} (e : Err) : Channel.Reads c d → Channel.Reads c (d.setErr e)
  | fresh {d : Channel} : Channel.Reads c d → Channel.Reads c d.fresh

theorem Channel.Writes.bits {c d : Channel} (h : c.Writes d) (v : Word) (n : Nat) : c.Writes (writeBits v n d) :=
  writeBits_induct (fun b _ => .bit b) h v n

theorem Channel.Writes.number {c d : Channel} (h : c.Writes d) (v : Word) (base : Nat) :
    c.Writes (writeNumber v base d) :=
  writeNumber_induct (fun b _ => .bit b) h v base

theorem Channel.Writes.header {c d : Channel} (h : c.Writes d) (total wb : Word) :
    c.Writes (writeHeader total wb d) := by
  unfold writeHeader
  dsimp only
  split
  · exact h.word total
  · exact (h.word total).word wb

/-- CX.COMPRESS uses the primitives of a write session only (42_codec.md R182). -/
theorem Channel.Writes.compress {c d : Channel} (h : c.Writes d) (p : Params) (m : Memory) (src n wb : Word) :
    c.Writes (compress p m src n wb d).2 := by
  have loop : c.Writes (compressLoop p m src.toNat n.toNat (windowOf wb) (baseOf wb) n.toNat 0
      (writeHeader n wb d.fresh)).2 :=
    compressLoop_induct (fun b _ => .bit b) p m _ _ _ _ _ (h.fresh.header n wb)
  unfold Machine.compress
  dsimp only
  repeat' split
  · exact h
  · exact h.setErr _
  · exact loop.flush
  · exact loop

theorem Channel.Reads.bits {c d : Channel} (h : c.Reads d) (n : Nat) : c.Reads (readBits n d).2 :=
  readBits_induct (fun _ => .bit) h n

theorem Channel.Reads.number {c d : Channel} (h : c.Reads d) (base : Nat) : c.Reads (readNumber base d).2 :=
  readNumber_induct (fun _ => .bit) (fun _ e => .setErr e) h base

theorem Channel.Reads.header {c d : Channel} (h : c.Reads d) : c.Reads (readHeader d).2 := by
  unfold readHeader
  dsimp only
  repeat' split
  · exact h.word
  · exact h.word.word
  · exact h.word.word

/-- CX.DECOMPRESS uses the primitives of a read session only (42_codec.md R183). -/
theorem Channel.Reads.decompress {c d : Channel} (h : c.Reads d) (m : Memory) (dst cap wb : Word) :
    c.Reads (decompress m dst cap wb d).2.chan := by
  have header : c.Reads (readHeader d.fresh).2 := h.fresh.header
  unfold Machine.decompress
  dsimp only
  repeat' split
  · exact h
  · exact h.setErr _
  · exact header
  · exact header.setErr _
  · exact decompressLoop_induct (fun _ => .bit) (fun _ e => .setErr e) _ _ _ _ _ header

/-! ## The effects of a command -/

/-- What command `i` can make of the session: it leaves it, opens one, uses the primitives of its direction, or closes it
afterwards. -/
inductive ChanEffect (i : Instr) (c : Channel) : Channel → Prop
  | same : ChanEffect i c c
  | opened {d : Dir} (hi : i = .bcOpenw ∨ i = .bcOpenr) (hd : d ≠ .none) : ChanEffect i c (c.openSession d)
  | wrote {d : Channel} : c.dir = .write → c.Writes d → ChanEffect i c d
  | read {d : Channel} : c.dir = .read → c.Reads d → ChanEffect i c d
  | closed {d : Channel} : ChanEffect i c d → ChanEffect i c d.close

/-- What command `i` can make of the heap: only HEAP.INIT, HEAP.ADD and HEAP.INC write it, the latter two after their
operand checks (40_heap.md R110 to R112). -/
inductive HeapEffect (i : Instr) (s : State) : Fhu → Prop
  | same : HeapEffect i s s.fhu
  | init : i = .heapInit → HeapEffect i s (Fhu.init s.param)
  | add : i = .heapAdd → s.arg0.toNat < s.param.n → s.fhu.tableAt s.arg0.toNat = absent →
      s.fhu.nc.toNat + s.fhu.need ≤ s.param.cap → HeapEffect i s (s.fhu.add s.arg0.toNat).2
  | inc : i = .heapInc → s.arg0.toNat < s.param.n → s.fhu.tableAt s.arg0.toNat ≠ absent →
      HeapEffect i s (s.fhu.bump (s.fhu.tableAt s.arg0.toNat).toNat).2

/-- `u` is `s` with the effects of command `i`, before the command ends: the heap, the session, DMEM and the RES registers
are all it can have written. -/
structure Effects (i : Instr) (s u : State) : Prop where
  fhu : HeapEffect i s u.fhu
  chan : ChanEffect i s.chan u.chan
  dmem : i ≠ .cxDecompress → u.dmem = s.dmem
  frame : u = { s with fhu := u.fhu, chan := u.chan, dmem := u.dmem, res0 := u.res0, res1 := u.res1, res2 := u.res2 }

/-- How command `i` started in `s` ends: with a fault raised and no effect, with its effects, or with its effects and the
debug check (60_exceptions.md R226, R232). -/
inductive Ended (i : Instr) (s : State) : State → Prop
  | raised {c : Cause} (hc : c ≠ .none) : Ended i s (s.raiseFault c (encode i))
  | completed {u : State} (hu : Effects i s u) : Ended i s u.finish
  | checked {u : State} (hu : Effects i s u) : Ended i s (debugCheck i u).finish

theorem ended_of_raise {i : Instr} {s t : State} {c : Cause} (h : raise c i s = .next t)
    (hc : c ≠ .none := by decide) : Ended i s t := by
  rw [raise_next h]; exact .raised hc

theorem ended_of_complete {i : Instr} {s u t : State} (h : complete u = .next t) (hu : Effects i s u) :
    Ended i s t := by
  rw [complete_next h]; exact .completed hu

/-- A command that writes no more than the RES registers. -/
theorem effects_of_results {i : Instr} {s u : State}
    (h : u = { s with res0 := u.res0, res1 := u.res1, res2 := u.res2 }) : Effects i s u := by
  have hf : u.fhu = s.fhu := by rw [h]
  have hc : u.chan = s.chan := by rw [h]
  have hm : u.dmem = s.dmem := by rw [h]
  exact ⟨hf ▸ .same, hc ▸ .same, fun _ => hm, by rw [hf, hc, hm]; exact h⟩

/-- A command that writes no more than the session and the RES registers. -/
theorem effects_of_session {i : Instr} {s u : State} (hc : ChanEffect i s.chan u.chan)
    (h : u = { s with chan := u.chan, res0 := u.res0, res1 := u.res1, res2 := u.res2 }) : Effects i s u := by
  have hf : u.fhu = s.fhu := by rw [h]
  have hm : u.dmem = s.dmem := by rw [h]
  exact ⟨hf ▸ .same, hc, fun _ => hm, by rw [hf, hm]; exact h⟩

/-- A command that writes no more than the heap and the RES registers. -/
theorem effects_of_heap {i : Instr} {s u : State} (hf : HeapEffect i s u.fhu)
    (h : u = { s with fhu := u.fhu, res0 := u.res0, res1 := u.res1, res2 := u.res2 }) : Effects i s u := by
  have hc : u.chan = s.chan := by rw [h]
  have hm : u.dmem = s.dmem := by rw [h]
  exact ⟨hf, hc ▸ .same, fun _ => hm, by rw [hc, hm]; exact h⟩

/-! ## Each command's end -/

section Commands
variable {s t : State}

theorem execHeapInit_ended (h : execHeapInit s = .next t) : Ended .heapInit s t :=
  ended_of_complete h (effects_of_heap (.init rfl) rfl)

theorem execHeapAdd_ended (h : execHeapAdd s = .next t) : Ended .heapAdd s t := by
  unfold execHeapAdd at h
  split at h
  · exact ended_of_raise h
  next hs =>
    split at h
    · exact ended_of_raise h
    next ht =>
      split at h
      · exact ended_of_raise h
      next hc =>
        have hs' : s.arg0.toNat < s.param.n := by simpa [symbolOk] using hs
        rw [complete_next h]
        exact .checked (effects_of_heap (.add rfl hs' (not_not.1 ht) (Nat.le_of_not_lt hc)) rfl)

theorem execHeapInc_ended (h : execHeapInc s = .next t) : Ended .heapInc s t := by
  unfold execHeapInc at h
  split at h
  · exact ended_of_raise h
  next hs =>
    split at h
    · exact ended_of_raise h
    next ht =>
      have hs' : s.arg0.toNat < s.param.n := by simpa [symbolOk] using hs
      rw [complete_next h]
      exact .checked (effects_of_heap (.inc rfl hs' ht) rfl)

theorem execHeapPath_ended (h : execHeapPath s = .next t) : Ended .heapPath s t := by
  unfold execHeapPath at h
  split at h
  · exact ended_of_raise h
  · split at h
    · exact ended_of_complete h (effects_of_results rfl)
    · exact ended_of_complete h (effects_of_results rfl)

theorem execHeapVerify_ended (h : execHeapVerify s = .next t) : Ended .heapVerify s t :=
  ended_of_complete h (effects_of_results rfl)

theorem execHeapRdnode_ended (h : execHeapRdnode s = .next t) : Ended .heapRdnode s t := by
  unfold execHeapRdnode at h
  split at h
  · exact ended_of_raise h
  · exact ended_of_complete h (effects_of_results rfl)

theorem execHeapRdtab_ended (h : execHeapRdtab s = .next t) : Ended .heapRdtab s t := by
  unfold execHeapRdtab at h
  split at h
  · exact ended_of_raise h
  · exact ended_of_complete h (effects_of_results rfl)

theorem execBcOpenw_ended (h : execBcOpenw s = .next t) : Ended .bcOpenw s t :=
  ended_of_complete h (effects_of_session (.opened (.inl rfl) (by decide)) rfl)

theorem execBcOpenr_ended (h : execBcOpenr s = .next t) : Ended .bcOpenr s t :=
  ended_of_complete h (effects_of_session (.opened (.inr rfl) (by decide)) rfl)

theorem execBcClose_ended (h : execBcClose s = .next t) : Ended .bcClose s t :=
  ended_of_complete h (effects_of_session (.closed .same) rfl)

theorem execBcWbit_ended (h : execBcWbit s = .next t) : Ended .bcWbit s t := by
  unfold execBcWbit at h
  split at h
  · exact ended_of_raise h
  next hd =>
    exact ended_of_complete h
      (effects_of_session (.wrote (not_not.1 hd) (.bit _ .refl)) rfl)

theorem execBcWbits_ended (h : execBcWbits s = .next t) : Ended .bcWbits s t := by
  unfold execBcWbits at h
  split at h
  · exact ended_of_raise h
  next hd =>
    split at h
    · exact ended_of_raise h
    · exact ended_of_complete h
        (effects_of_session (.wrote (not_not.1 hd) (Channel.Writes.refl.bits _ _)) rfl)

theorem execBcWnum_ended (h : execBcWnum s = .next t) : Ended .bcWnum s t := by
  unfold execBcWnum at h
  split at h
  · exact ended_of_raise h
  next hd =>
    split at h
    · exact ended_of_raise h
    · split at h
      · exact ended_of_complete h (effects_of_results rfl)
      · exact ended_of_complete h
          (effects_of_session (.wrote (not_not.1 hd) (Channel.Writes.refl.number _ _)) rfl)

theorem execBcFlush_ended (h : execBcFlush s = .next t) : Ended .bcFlush s t := by
  unfold execBcFlush at h
  split at h
  · exact ended_of_raise h
  next hd =>
    exact ended_of_complete h (effects_of_session (.wrote (not_not.1 hd) (.flush .refl)) rfl)

theorem execBcRbit_ended (h : execBcRbit s = .next t) : Ended .bcRbit s t := by
  unfold execBcRbit at h
  split at h
  · exact ended_of_raise h
  next hd =>
    exact ended_of_complete h (effects_of_session (.read (not_not.1 hd) (.bit .refl)) rfl)

theorem execBcRbits_ended (h : execBcRbits s = .next t) : Ended .bcRbits s t := by
  unfold execBcRbits at h
  split at h
  · exact ended_of_raise h
  next hd =>
    split at h
    · exact ended_of_raise h
    · exact ended_of_complete h
        (effects_of_session (.read (not_not.1 hd) (Channel.Reads.refl.bits _)) rfl)

theorem execBcRnum_ended (h : execBcRnum s = .next t) : Ended .bcRnum s t := by
  unfold execBcRnum at h
  split at h
  · exact ended_of_raise h
  next hd =>
    split at h
    · exact ended_of_raise h
    · exact ended_of_complete h
        (effects_of_session (.read (not_not.1 hd) (Channel.Reads.refl.number _)) rfl)

theorem execCxWhdr_ended (h : execCxWhdr s = .next t) : Ended .cxWhdr s t := by
  unfold execCxWhdr at h
  split at h
  · exact ended_of_raise h
  next hd =>
    split at h
    · exact ended_of_complete h (effects_of_results rfl)
    · split at h
      · exact ended_of_complete h
          (effects_of_session (.wrote (not_not.1 hd) (.setErr _ .refl)) rfl)
      · exact ended_of_complete h
          (effects_of_session (.wrote (not_not.1 hd) (Channel.Writes.refl.header _ _)) rfl)

theorem execCxRhdr_ended (h : execCxRhdr s = .next t) : Ended .cxRhdr s t := by
  unfold execCxRhdr at h
  split at h
  · exact ended_of_raise h
  next hd =>
    split at h
    · exact ended_of_complete h (effects_of_results rfl)
    · have header : s.chan.Reads (readHeader s.chan).2 := Channel.Reads.refl.header
      dsimp only at h
      split at h
      · exact ended_of_complete h (effects_of_session (.read (not_not.1 hd) header) rfl)
      · refine ended_of_complete h (effects_of_session (.read (not_not.1 hd) ?_) rfl)
        simp only [State.setRes1_chan, State.setRes0_chan, State.setChan_chan]
        split
        · exact header.setErr _
        · exact header

theorem execCxCompress_ended (h : execCxCompress s = .next t) : Ended .cxCompress s t := by
  unfold execCxCompress at h
  split at h
  · exact ended_of_raise h
  next hd =>
    split at h
    · exact ended_of_raise h
    · exact ended_of_complete h (effects_of_session
        (.closed (.wrote (not_not.1 hd) (Channel.Writes.refl.compress _ _ _ _ _))) rfl)

theorem execCxDecompress_ended (h : execCxDecompress s = .next t) : Ended .cxDecompress s t := by
  unfold execCxDecompress at h
  split at h
  · exact ended_of_raise h
  next hd =>
    split at h
    · exact ended_of_raise h
    · refine ended_of_complete h ⟨?_, ?_, fun hi => absurd rfl hi, ?_⟩
      · simpa using HeapEffect.same
      · simpa using ChanEffect.closed (.read (not_not.1 hd) (Channel.Reads.refl.decompress _ _ _ _))
      · generalize (decompress s.dmem s.arg0 s.arg1 s.arg2 s.chan).1 = header
        cases header <;> rfl

end Commands

/-- How any command ends. -/
theorem exec_ended {i : Instr} {s t : State} (h : exec i s = .next t) : Ended i s t := by
  cases i with
  | heapInit => exact execHeapInit_ended h
  | heapAdd => exact execHeapAdd_ended h
  | heapInc => exact execHeapInc_ended h
  | heapPath => exact execHeapPath_ended h
  | heapVerify => exact execHeapVerify_ended h
  | heapRdnode => exact execHeapRdnode_ended h
  | heapRdtab => exact execHeapRdtab_ended h
  | bcOpenw => exact execBcOpenw_ended h
  | bcOpenr => exact execBcOpenr_ended h
  | bcClose => exact execBcClose_ended h
  | bcWbit => exact execBcWbit_ended h
  | bcWbits => exact execBcWbits_ended h
  | bcWnum => exact execBcWnum_ended h
  | bcFlush => exact execBcFlush_ended h
  | bcRbit => exact execBcRbit_ended h
  | bcRbits => exact execBcRbits_ended h
  | bcRnum => exact execBcRnum_ended h
  | cxWhdr => exact execCxWhdr_ended h
  | cxRhdr => exact execCxRhdr_ended h
  | cxCompress => exact execCxCompress_ended h
  | cxDecompress => exact execCxDecompress_ended h

end Sys2Proof.Machine
end

section
/-! The frame of a command and of a step: what each part of the state can have become. -/
namespace Sys2Proof.Machine

section Frame
variable {i : Instr} {s t u : State}

theorem Effects.param (h : Effects i s u) : u.param = s.param := by rw [h.frame]

theorem Effects.fault (h : Effects i s u) : u.faultCause = s.faultCause ∧ u.faultWord = s.faultWord := by
  rw [h.frame]; exact ⟨rfl, rfl⟩

/-- A command ends with BUSY 0 (10_state.md R34). -/
theorem Ended.busy (h : Ended i s t) : t.busy = false := by
  cases h <;> simp

theorem Ended.param (h : Ended i s t) : t.param = s.param := by
  cases h with
  | raised _ => simp
  | completed hu => simpa using hu.param
  | checked hu => simpa using hu.param

theorem Ended.fhu (h : Ended i s t) : HeapEffect i s t.fhu := by
  cases h with
  | raised _ => simpa using HeapEffect.same
  | completed hu => simpa using hu.fhu
  | checked hu => simpa using hu.fhu

theorem Ended.chan (h : Ended i s t) : ChanEffect i s.chan t.chan := by
  cases h with
  | raised _ => simpa using ChanEffect.same
  | completed hu => simpa using hu.chan
  | checked hu => simpa using hu.chan

theorem Ended.dmem (h : Ended i s t) (hi : i ≠ .cxDecompress) : t.dmem = s.dmem := by
  cases h with
  | raised _ => simp
  | completed hu => simpa using hu.dmem hi
  | checked hu => simpa using hu.dmem hi

/-- A fault that stands is kept by `recordFault` (60_exceptions.md R226); with none standing one is recorded. -/
theorem State.recordFault_cause (s : State) {c : Cause} (hc : c ≠ .none) (w : CmdWord) :
    ((s.recordFault c w).faultCause = s.faultCause ∧ (s.recordFault c w).faultWord = s.faultWord)
      ∨ (s.faultCause = .none ∧ (s.recordFault c w).faultCause ≠ .none) := by
  by_cases h : s.faultCause = .none
  · exact .inr ⟨h, by rw [State.recordFault_of_clear h]; exact hc⟩
  · exact .inl (by rw [State.recordFault_of_set h]; exact ⟨rfl, rfl⟩)

/-- FAULT after a command: as before it, or newly recorded where none was (60_exceptions.md R226). -/
theorem Ended.fault (h : Ended i s t) :
    (t.faultCause = s.faultCause ∧ t.faultWord = s.faultWord) ∨ (s.faultCause = .none ∧ t.faultCause ≠ .none) := by
  cases h with
  | raised hc => exact s.recordFault_cause hc (encode i)
  | completed hu => exact .inl hu.fault
  | @checked u hu =>
    obtain ⟨hcause, hword⟩ := hu.fault
    rcases debugCheck_cases u i with he | ⟨-, -, he⟩
    · exact .inl (by rw [he]; exact ⟨hcause, hword⟩)
    · have := u.recordFault_cause (c := .invariantViolation) (by decide) (encode i)
      rw [he]
      simpa only [State.finish_faultCause, State.finish_faultWord, hcause, hword] using this

end Frame

/-! ## A step -/

/-- `u` is `s` with a command in progress and some host action consumed. -/
def State.Begun (s u : State) : Prop := u = { s with pending := u.pending, busy := true, cmdWord := u.cmdWord }

theorem State.begun_begin (s : State) (rest : List HostAction) (w : CmdWord) :
    s.Begun ({ s with pending := rest }.begin w) := rfl

/-- A host access, or none, made `t` of `s`: the ARG registers, ERR, DMEM and the model's own lists are all it can change. -/
def State.Accessed (s t : State) : Prop :=
  t = { s with arg0 := t.arg0, arg1 := t.arg1, arg2 := t.arg2, chan := { s.chan with err := t.chan.err }
               dmem := t.dmem, pending := t.pending, hostReads := t.hostReads }

/-- What a step can make of `s`. -/
inductive Stepped (s : State) : State → Prop
  | accessed {t : State} : s.Accessed t → Stepped s t
  | dropped (rest : List HostAction) : s.busy = true → Stepped s { s with pending := rest }.busyWrite
  | ran {i : Instr} {u t : State} : s.Begun u → Ended i u t → Stepped s t
  | misnamed {u : State} {c : Cause} {w : CmdWord} : s.Begun u → c ≠ .none → Stepped s (u.raiseFault c w)
  | reset {rest : List HostAction} : s.pending = .reset :: rest → Stepped s { s with pending := rest }.resetAction

section Step
variable {s t : State}

/-- A host write to a register other than CMD changes ARG registers and ERR only (10_state.md R40). -/
theorem State.writeReg_accessed (s : State) (offset : Nat) (v : Word) : s.Accessed (s.writeReg offset v) := by
  unfold State.writeReg
  split <;> exact rfl

theorem decodeCause_ne_none (e : DecodeError) : decodeCause e ≠ .none := by cases e <;> decide

/-- A CMD word that runs: its command, or the fault of a word that names none (30_encoding.md R81, R84). -/
theorem runCommand_stepped {u : State} {v : Word} (hu : s.Begun u) (h : runCommand v u = .next t) : Stepped s t := by
  unfold runCommand at h
  split at h
  · exact .ran hu (exec_ended h)
  next e _ =>
    injection h with h
    rw [← h]
    exact .misnamed hu (decodeCause_ne_none e)

theorem dmemStop_next {addr : Nat} {r : Result} (h : dmemStop addr s = some r) : r ≠ .next t := by
  unfold dmemStop at h
  split at h
  · injection h with h; rw [← h]; simp
  · split at h
    · injection h with h; rw [← h]; simp
    · cases h

theorem hostWrite_stepped {rest : List HostAction} {offset : Nat} {v : Word}
    (h : hostWrite offset v { s with pending := rest } = .next t) : Stepped s t := by
  unfold hostWrite at h
  split at h
  next hb =>
    injection h with h
    rw [← h]
    exact .dropped rest hb
  next hb =>
    split at h
    · unfold issue at h
      split at h
      · injection h with h
        rw [← h]
        exact .accessed rfl
      · exact runCommand_stepped (s.begun_begin rest (v.setWidth 32)) h
    · injection h with h
      rw [← h]
      refine .accessed ?_
      have := State.writeReg_accessed { s with pending := rest } offset v
      exact this

/-- Everything a step can do. -/
theorem step_stepped (h : step s = .next t) : Stepped s t := by
  unfold step at h
  split at h
  next =>
    unfold idle at h
    split at h
    next hb => exact runCommand_stepped (u := s) (by unfold State.Begun; rw [← hb]) h
    next => injection h with h; rw [← h]; exact .accessed rfl
  next a rest hp =>
    cases a with
    | regWrite width addr v =>
      unfold act at h
      dsimp only at h
      split at h
      · cases h
      · exact hostWrite_stepped h
    | regRead width addr =>
      unfold act at h
      dsimp only at h
      split at h
      · cases h
      · injection h with h; rw [← h]; exact .accessed rfl
    | memWrite addr v =>
      unfold act at h
      dsimp only at h
      split at h
      next hd => exact absurd h (dmemStop_next hd)
      next => injection h with h; rw [← h]; exact .accessed rfl
    | memRead addr =>
      unfold act at h
      dsimp only at h
      split at h
      next hd => exact absurd h (dmemStop_next hd)
      next => injection h with h; rw [← h]; exact .accessed rfl
    | reset =>
      injection h with h
      rw [← h]
      exact .reset hp

end Step

/-! ## What a started command finds, and FAULT -/

theorem State.Begun.fault {s u : State} (h : s.Begun u) : u.faultCause = s.faultCause ∧ u.faultWord = s.faultWord := by
  rw [h]; exact ⟨rfl, rfl⟩

theorem State.Begun.param {s u : State} (h : s.Begun u) : u.param = s.param := by rw [h]
theorem State.Begun.fhu {s u : State} (h : s.Begun u) : u.fhu = s.fhu := by rw [h]
theorem State.Begun.chan {s u : State} (h : s.Begun u) : u.chan = s.chan := by rw [h]

/-- FAULT after a step: as before, newly recorded where none was, or cleared by a reset. -/
theorem Stepped.fault {s t : State} (h : Stepped s t) :
    (t.faultCause = s.faultCause ∧ t.faultWord = s.faultWord) ∨ (s.faultCause = .none ∧ t.faultCause ≠ .none)
      ∨ ((∃ rest, s.pending = .reset :: rest) ∧ t.faultCause = .none ∧ t.faultWord = 0#32) := by
  cases h with
  | accessed ht => rw [ht]; exact .inl ⟨rfl, rfl⟩
  | dropped rest _ => exact (State.recordFault_cause { s with pending := rest } (by decide) _).imp_right .inl
  | @ran i u _ hu he =>
    obtain ⟨hcause, hword⟩ := hu.fault
    rw [← hcause, ← hword]
    exact he.fault.imp_right .inl
  | @misnamed u _ w hu hc =>
    obtain ⟨hcause, hword⟩ := hu.fault
    rw [← hcause, ← hword]
    exact (u.recordFault_cause hc w).imp_right .inl
  | @reset rest hp => exact .inr (.inr ⟨⟨rest, hp⟩, rfl, rfl⟩)

/-- Settles O7: `recordFault` is the only writer of FAULT but the reset action. -/
theorem faultStaysUntilReset : Obligations.FaultStaysUntilReset := by
  intro s t hs h hr
  rcases (step_stepped h).fault with hkept | ⟨hnone, -⟩ | ⟨⟨rest, hp⟩, -⟩
  · exact hkept
  · exact absurd hnone hs
  · exact absurd hp (hr rest)

/-! ## Frames of the commands -/

/-- Settles O18, from the effects each command can have on the heap and on DMEM. -/
theorem otherCommandsLeaveHeapAndDmem : Obligations.OtherCommandsLeaveHeapAndDmem := by
  intro i s t h
  refine ⟨fun hi => ?_, (exec_ended h).dmem⟩
  simp only [List.mem_cons, List.not_mem_nil, or_false, not_or] at hi
  obtain ⟨hinit, hadd, hinc⟩ := hi
  have effect := (exec_ended h).fhu
  generalize t.fhu = g at effect
  cases effect with
  | same => rfl
  | init h => exact absurd h hinit
  | add h => exact absurd h hadd
  | inc h => exact absurd h hinc

end Sys2Proof.Machine
end

section
/-! The session invariant and the transaction count, kept by each primitive of a session. -/
namespace Sys2Proof.Machine

/-! ## The session invariant -/

section Session
variable {c d : Channel}

/-- ACC below `2 ^ CURSOR` and CURSOR at most 64: the writer's part of the session invariant (41_bitchannel.md R143). -/
def Channel.WriterOk (c : Channel) : Prop := c.cursor.toNat ≤ 64 ∧ c.acc.toNat < 2 ^ c.cursor.toNat

theorem Channel.ok_of_write (h : c.dir = .write) : c.Ok ↔ c.WriterOk := by
  simp [Channel.Ok, Channel.WriterOk, h]

theorem Channel.ok_of_read (h : c.dir = .read) : c.Ok ↔ c.cursor.toNat < 64 := by simp [Channel.Ok, h]

theorem Channel.ok_of_none (h : c.dir = .none) : c.Ok ↔ c.cursor.toNat ≤ 64 := by simp [Channel.Ok, h]

/-- CURSOR is at most 64 in every session. -/
theorem Channel.Ok.cursor_le (h : c.Ok) : c.cursor.toNat ≤ 64 := by
  cases hd : c.dir with
  | none => exact (Channel.ok_of_none hd).1 h
  | write => exact ((Channel.ok_of_write hd).1 h).1
  | read => exact Nat.le_of_lt ((Channel.ok_of_read hd).1 h)

/-- The invariant reads DIR, ACC and CURSOR only. -/
theorem Channel.Ok.congr (h : c.Ok) (hdir : d.dir = c.dir) (hacc : d.acc = c.acc) (hcur : d.cursor = c.cursor) :
    d.Ok := by
  unfold Channel.Ok at h ⊢
  rw [hdir, hacc, hcur]
  exact h

/-- CURSOR after one more bit, which does not wrap below 64. -/
theorem cursor_add_one {k : BitVec 7} (h : k.toNat ≤ 64) : (k + 1#7).toNat = k.toNat + 1 := by
  rw [BitVec.toNat_add]
  simp only [BitVec.toNat_ofNat]
  omega

/-- The bit that is placed stands at CURSOR. -/
theorem placed_toNat (b : Bool) {k : Nat} (hk : k < 64) :
    ((BitVec.ofBool b).setWidth 64 <<< k : Word).toNat = b.toNat * 2 ^ k := by
  have hpow : 2 ^ k < 2 ^ 64 := Nat.pow_lt_pow_right (by decide) hk
  cases b with
  | false => simp
  | true =>
    rw [BitVec.toNat_shiftLeft, Nat.shiftLeft_eq]
    exact Nat.mod_eq_of_lt (by simpa using hpow)

/-- A bit placed below 64 keeps the bits at and above CURSOR 0 (41_bitchannel.md R140). -/
theorem placeBit_writerOk (h : c.WriterOk) (hlt : c.cursor.toNat < 64) (b : Bool) : (placeBit b c).WriterOk := by
  obtain ⟨hcur, hacc⟩ := h
  have hk : (placeBit b c).cursor.toNat = c.cursor.toNat + 1 := cursor_add_one hcur
  have hlow : c.acc.toNat < 2 ^ (c.cursor.toNat + 1) := Nat.lt_trans hacc (Nat.pow_lt_pow_right (by decide) (by omega))
  have hbit : ((BitVec.ofBool b).setWidth 64 <<< c.cursor.toNat : Word).toNat < 2 ^ (c.cursor.toNat + 1) := by
    have hpos : 0 < 2 ^ c.cursor.toNat := Nat.two_pow_pos _
    rw [placed_toNat b hlt, Nat.pow_succ]
    cases b <;> simp
  refine ⟨by omega, ?_⟩
  rw [hk]
  exact Nat.or_lt_two_pow hlow hbit

theorem cursor_ne_full (h : c.cursor.toNat ≤ 64) (hne : c.cursor ≠ 64#7) : c.cursor.toNat < 64 := by
  refine lt_of_le_of_ne h fun he => hne (BitVec.eq_of_toNat_eq ?_)
  simpa using he

/-- `writeBit` keeps the writer's invariant (41_bitchannel.md R140). -/
theorem writeBit_writerOk (h : c.WriterOk) (b : Bool) : (writeBit b c).WriterOk := by
  by_cases he : c.err = .clear
  · rcases writeBit_cases he b with ⟨hc, hw⟩ | ⟨-, -, hw⟩ | ⟨-, -, hw⟩
    · rw [hw]; exact placeBit_writerOk h (cursor_ne_full h.1 hc) b
    · rw [hw]; exact placeBit_writerOk ⟨by simp, by simp⟩ (by simp) b
    · rw [hw]; simpa [Channel.WriterOk] using h
  · rw [writeBit_of_err he]; exact h

/-- With an error set nothing is flushed (41_bitchannel.md R143). -/
theorem flush_of_err (h : c.err ≠ .clear) : flush c = c := by simp [flush, h]

@[simp] theorem flush_dir (c : Channel) : (flush c).dir = c.dir := by
  by_cases he : c.err = .clear
  · rcases flush_cases he with ⟨-, hw⟩ | ⟨-, -, hw⟩ | ⟨-, -, hw⟩ <;> rw [hw]
    · exact portWrite_dir c c.acc
    · exact portWrite_dir c c.acc
  · rw [flush_of_err he]

/-- `flush` keeps the writer's invariant (41_bitchannel.md R143). -/
theorem flush_writerOk (h : c.WriterOk) : (flush c).WriterOk := by
  by_cases he : c.err = .clear
  · rcases flush_cases he with ⟨-, hw⟩ | ⟨-, -, hw⟩ | ⟨-, -, hw⟩
    · rw [hw]; exact h
    · rw [hw]; exact ⟨by simp, by simp⟩
    · rw [hw]; simpa [Channel.WriterOk] using h
  · rw [flush_of_err he]; exact h

theorem Channel.Writes.dir (h : c.Writes d) : d.dir = c.dir := by
  induction h with
  | refl => rfl
  | bit _ _ ih => simpa using ih
  | word _ _ ih => simpa using ih
  | flush _ ih => simpa using ih
  | setErr _ _ ih => simpa using ih
  | fresh _ ih => simpa using ih

theorem Channel.Writes.writerOk (h : c.Writes d) (hc : c.WriterOk) : d.WriterOk := by
  induction h with
  | refl => exact hc
  | bit b _ ih => exact writeBit_writerOk ih b
  | word _ _ ih => simpa [Channel.WriterOk] using ih
  | flush _ ih => exact flush_writerOk ih
  | setErr _ _ ih => simpa [Channel.WriterOk] using ih
  | fresh _ _ => exact ⟨by simp, by simp⟩

@[simp] theorem advanceRead_dir (c : Channel) : (advanceRead c).dir = c.dir := rfl

theorem advanceRead_cursor_lt (c : Channel) : (advanceRead c).cursor.toNat < 64 := by
  simp only [advanceRead, BitVec.toNat_ofNat]
  omega

@[simp] theorem readBit_dir (c : Channel) : (readBit c).2.dir = c.dir := by
  by_cases he : c.err = .clear
  · rcases readBit_cases he with ⟨-, hr⟩ | ⟨-, w, -, hr⟩ | ⟨-, -, hr⟩ <;> rw [hr] <;> simp
  · rw [readBit_of_err he]

/-- `readBit` leaves CURSOR below 64 (41_bitchannel.md R144). -/
theorem readBit_cursor_lt (h : c.cursor.toNat < 64) : (readBit c).2.cursor.toNat < 64 := by
  by_cases he : c.err = .clear
  · rcases readBit_cases he with ⟨-, hr⟩ | ⟨-, w, -, hr⟩ | ⟨-, -, hr⟩ <;> rw [hr]
    · exact advanceRead_cursor_lt _
    · exact advanceRead_cursor_lt _
    · simpa using h
  · rw [readBit_of_err he]; exact h

theorem Channel.Reads.dir (h : c.Reads d) : d.dir = c.dir := by
  induction h with
  | refl => rfl
  | bit _ ih => simpa using ih
  | word _ ih => simpa using ih
  | setErr _ _ ih => simpa using ih
  | fresh _ ih => simpa using ih

theorem Channel.Reads.cursor_lt (h : c.Reads d) (hc : c.cursor.toNat < 64) : d.cursor.toNat < 64 := by
  induction h with
  | refl => exact hc
  | bit _ ih => exact readBit_cursor_lt ih
  | word _ ih => simpa using ih
  | setErr _ _ ih => simpa using ih
  | fresh _ _ => simp

theorem Channel.openSession_ok (c : Channel) {dir : Dir} (hd : dir ≠ .none) : (c.openSession dir).Ok := by
  cases dir with
  | none => exact absurd rfl hd
  | write => exact (Channel.ok_of_write rfl).2 ⟨by simp [Channel.openSession], by simp [Channel.openSession]⟩
  | read => exact (Channel.ok_of_read rfl).2 (by simp [Channel.openSession])

/-- Every command keeps the session invariant. -/
theorem ChanEffect.ok {i : Instr} (h : ChanEffect i c d) (hc : c.Ok) : d.Ok := by
  induction h with
  | same => exact hc
  | opened _ hd => exact c.openSession_ok hd
  | wrote hdir hw =>
    exact (Channel.ok_of_write (hw.dir.trans hdir)).2 (hw.writerOk ((Channel.ok_of_write hdir).1 hc))
  | read hdir hr =>
    exact (Channel.ok_of_read (hr.dir.trans hdir)).2 (hr.cursor_lt ((Channel.ok_of_read hdir).1 hc))
  | closed _ ih => exact (Channel.ok_of_none rfl).2 ih.cursor_le

end Session

/-- Every step keeps the session invariant on the session alone. -/
theorem Stepped.chan_ok {s t : State} (h : Stepped s t) (hs : s.chan.Ok) : t.chan.Ok := by
  cases h with
  | accessed ht => rw [ht]; exact hs.congr rfl rfl rfl
  | dropped rest _ => simpa [State.busyWrite] using hs
  | ran hu he => exact he.chan.ok (hu.chan ▸ hs)
  | misnamed hu _ => simpa [hu.chan] using hs
  | reset _ => exact (Channel.ok_of_none rfl).2 (by simp [State.resetAction])

/-- A step from BUSY 0 leaves BUSY 0 (10_state.md R34). -/
theorem Stepped.busy {s t : State} (h : Stepped s t) (hs : s.busy = false) : t.busy = false := by
  cases h with
  | accessed ht => rw [ht]; exact hs
  | dropped _ hb => simp [hs] at hb
  | ran _ he => exact he.busy
  | misnamed _ _ => simp
  | reset _ => rfl

/-- FAULT.CMDWORD stays 0 while no fault is recorded (10_state.md R33). -/
theorem Stepped.faultWord_clear {s t : State} (h : Stepped s t) (hs : s.faultCause = .none → s.faultWord = 0#32)
    (ht : t.faultCause = .none) : t.faultWord = 0#32 := by
  rcases h.fault with ⟨hcause, hword⟩ | ⟨-, hset⟩ | ⟨-, -, hword⟩
  · exact hword.trans (hs (hcause.symm.trans ht))
  · exact absurd ht hset
  · exact hword

/-- Settles O58: the three parts of the invariant, each kept by every shape of a step. -/
theorem stepKeepsTheSessionWellFormed : Obligations.StepKeepsTheSessionWellFormed := by
  intro s t ⟨hbusy, hchan, hfault⟩ h
  have hst := step_stepped h
  exact ⟨hst.busy hbusy, hst.chan_ok hchan, hst.faultWord_clear hfault⟩

/-! ## WORDS counts the transactions -/

/-- Between `c` and `d` the transactions `made` were traced and WORDS grew by their number (10_state.md R31). -/
def Channel.Counted (c d : Channel) : Prop :=
  ∃ made : List PortEvent, d.port.trace = made ++ c.port.trace ∧ d.words = c.words + BitVec.ofNat 64 made.length

section Counting
variable {c d : Channel}

theorem Channel.Counted.refl (c : Channel) : c.Counted c := ⟨[], rfl, by simp⟩

/-- One more transaction. -/
theorem Channel.Counted.cons {e : Channel} (h : c.Counted d) (ev : PortEvent) (ht : e.port.trace = ev :: d.port.trace)
    (hw : e.words = d.words + 1#64) : c.Counted e := by
  obtain ⟨made, htrace, hwords⟩ := h
  refine ⟨ev :: made, by rw [ht, htrace]; rfl, ?_⟩
  rw [hw, hwords, List.length_cons, BitVec.ofNat_add, BitVec.add_assoc]

/-- No transaction. -/
theorem Channel.Counted.congr {e : Channel} (h : c.Counted d) (ht : e.port = d.port) (hw : e.words = d.words) :
    c.Counted e := by
  unfold Channel.Counted
  rw [ht, hw]
  exact h

theorem Channel.Counted.portWrite {e : Channel} (h : c.Counted d) {w : Word} (hp : e.port = (portWrite w d).port)
    (hw : e.words = (Machine.portWrite w d).words) : c.Counted e :=
  h.cons (.wrote w d.port.nextWrite) (by simp [hp]) (by simp [hw])

theorem Channel.Counted.portRead {e : Channel} (h : c.Counted d) (hp : e.port = (portRead d).2.port)
    (hw : e.words = (Machine.portRead d).2.words) : c.Counted e :=
  h.cons (.asked d.port.nextRead) (by simp [hp]) (by simp [hw])

theorem Channel.Counted.writeBit (h : c.Counted d) (b : Bool) : c.Counted (writeBit b d) := by
  by_cases he : d.err = .clear
  · rcases writeBit_cases he b with ⟨-, hw⟩ | ⟨-, -, hw⟩ | ⟨-, -, hw⟩ <;> rw [hw]
    · exact h.congr rfl rfl
    · exact h.portWrite rfl rfl
    · exact h.portWrite rfl rfl
  · rw [writeBit_of_err he]; exact h

theorem Channel.Counted.flush (h : c.Counted d) : c.Counted (flush d) := by
  by_cases he : d.err = .clear
  · rcases flush_cases he with ⟨-, hw⟩ | ⟨-, -, hw⟩ | ⟨-, -, hw⟩ <;> rw [hw]
    · exact h
    · exact h.portWrite rfl rfl
    · exact h.portWrite rfl rfl
  · rw [flush_of_err he]; exact h

theorem Channel.Counted.readBit (h : c.Counted d) : c.Counted (readBit d).2 := by
  by_cases he : d.err = .clear
  · rcases readBit_cases he with ⟨-, hr⟩ | ⟨-, w, -, hr⟩ | ⟨-, -, hr⟩ <;> rw [hr]
    · exact h.congr rfl rfl
    · exact h.portRead rfl rfl
    · exact h.portRead rfl rfl
  · rw [readBit_of_err he]; exact h

theorem Channel.Writes.counted (h : c.Writes d) : c.Counted d := by
  induction h with
  | refl => exact .refl c
  | bit b _ ih => exact ih.writeBit b
  | word w _ ih => exact ih.portWrite rfl rfl
  | flush _ ih => exact ih.flush
  | setErr e _ ih => exact ih.congr (by simp) (by simp)
  | fresh _ ih => exact ih.congr rfl rfl

theorem Channel.Reads.counted (h : c.Reads d) : c.Counted d := by
  induction h with
  | refl => exact .refl c
  | bit _ ih => exact ih.readBit
  | word _ ih => exact ih.portRead rfl rfl
  | setErr e _ ih => exact ih.congr (by simp) (by simp)
  | fresh _ ih => exact ih.congr rfl rfl

theorem Channel.openSession_words (c : Channel) (dir : Dir) : (c.openSession dir).words = 0#64 := rfl
theorem Channel.openSession_port (c : Channel) (dir : Dir) : (c.openSession dir).port = c.port := rfl

/-- Every command but BC.OPENW and BC.OPENR counts on from the WORDS it finds. -/
theorem ChanEffect.counted {i : Instr} (h : ChanEffect i c d) (hi : ¬ (i = .bcOpenw ∨ i = .bcOpenr)) :
    c.Counted d := by
  induction h with
  | same => exact .refl c
  | opened ho _ => exact absurd ho hi
  | wrote _ hw => exact hw.counted
  | read _ hr => exact hr.counted
  | closed _ ih => exact ih.congr rfl rfl

end Counting

/-- BC.OPENW and BC.OPENR make no transaction and reset WORDS (41_bitchannel.md R150, R151). -/
theorem exec_open_chan {i : Instr} {s t : State} (hi : i = .bcOpenw ∨ i = .bcOpenr) (h : exec i s = .next t) :
    ∃ dir, t.chan = s.chan.openSession dir := by
  rcases hi with rfl | rfl
  · exact ⟨.write, by rw [complete_next (s := s.setChan (s.chan.openSession .write)) h]; rfl⟩
  · exact ⟨.read, by rw [complete_next (s := s.setChan (s.chan.openSession .read)) h]; rfl⟩

/-- Settles O21: each primitive of a session counts its transactions. -/
theorem wordsCountsTransactions : Obligations.WordsCountsTransactions := by
  intro i s t h
  by_cases hi : i = .bcOpenw ∨ i = .bcOpenr
  · obtain ⟨dir, hc⟩ := exec_open_chan hi h
    exact ⟨[], by rw [hc, Channel.openSession_port]; rfl, by simp [hc, hi, Channel.openSession_words]⟩
  · obtain ⟨made, htrace, hwords⟩ := (exec_ended h).chan.counted hi
    exact ⟨made, htrace, by rw [hwords, if_neg hi]⟩

end Sys2Proof.Machine
end

section
/-! The register window: the map, the fields of the status registers, and the issue of a command. -/
namespace Sys2Proof.Machine

/-! ## The register map -/

/-- What a write to ERR stores depends on the low two bits as a number (10_state.md R40). -/
theorem errOfWrite_eq (v : Word) :
    errOfWrite v = if v.toNat % 4 = 0 then .clear else if v.toNat % 4 = 1 then .invalidParameter else .ioFailure := by
  have low : ∀ k : Nat, k < 4 → (v.extractLsb' 0 2 = BitVec.ofNat 2 k ↔ v.toNat % 4 = k) := by
    intro k hk
    rw [← BitVec.toNat_inj]
    simp only [BitVec.extractLsb'_toNat, Nat.shiftRight_zero, BitVec.toNat_ofNat]
    omega
  simp only [errOfWrite, low 0 (by decide), low 1 (by decide)]

/-- A write to a register other than CMD, offset by offset (10_state.md R40). -/
theorem State.writeReg_eq (s : State) (offset : Nat) (v : Word) :
    s.writeReg offset v =
      if offset = 0x10 then { s with arg0 := v }
      else if offset = 0x18 then { s with arg1 := v }
      else if offset = 0x20 then { s with arg2 := v }
      else if offset = 0x48 then { s with chan := { s.chan with err := errOfWrite v } }
      else s := by
  unfold State.writeReg
  split
  · rfl
  · rfl
  · rfl
  · rfl
  next h10 h18 h20 h48 => rw [if_neg h10, if_neg h18, if_neg h20, if_neg h48]

/-- Settles O10: reads by definition, accesses by the window's laws, writes by `writeReg_eq`. -/
theorem registerMap : Obligations.RegisterMap := by
  intro s
  refine ⟨?_, fun off ha hw => act_regRead s ha hw, ?_, ?_⟩
  · exact ⟨rfl, rfl, rfl, rfl, rfl, rfl, rfl, rfl, rfl, rfl, rfl, rfl, rfl, rfl, rfl, rfl⟩
  · intro width addr v ho
    simp [act, accessOffset_outside s.param ho]
  · intro off v ha hw hcmd hbusy
    rw [act_regWrite s v ha hw, ← errOfWrite_eq, ← State.writeReg_eq]
    simp [hostWrite, hbusy, hcmd]

/-- Settles O12, from what address an access must have and what `busyWrite` records. -/
theorem registerAccessRules : Obligations.RegisterAccessRules := by
  intro s
  refine ⟨?_, fun off ha hw => ⟨_, act_regRead s ha hw⟩, ?_⟩
  · intro width off v hw h
    simp [act, accessOffset_misaligned s.param hw h]
  · intro off v ha hw hbusy
    rw [act_regWrite s v ha hw, hostWrite_busy s off v hbusy]
    exact ⟨fun hf => by rw [State.busyWrite, State.recordFault_of_clear hf], fun hf => by rw [busyWrite_faulted s hf]⟩

/-! ## The fields of STATUS, FAULT and PARAM -/

/-- A field placed at bit `k` above a value below `2 ^ k` adds to it. -/
theorem toNat_or_field {v f : Word} {k x y : Nat} (hv : v.toNat = x) (hf : f.toNat = y) (hx : x < 2 ^ k)
    (hy : y * 2 ^ k < 2 ^ 64) : (v ||| f <<< k).toNat = x + y * 2 ^ k := by
  subst hv hf
  rw [BitVec.toNat_or, BitVec.toNat_shiftLeft, Nat.shiftLeft_eq, Nat.mod_eq_of_lt hy, Nat.or_comm, Nat.mul_comm,
    ← Nat.two_pow_add_eq_or_of_lt hx, Nat.add_comm]

/-- A bit read from the value as a number. -/
theorem getLsbD_of_toNat {v : Word} {k : Nat} {b : Bool} (h : v.toNat / 2 ^ k % 2 = b.toNat) : v.getLsbD k = b := by
  rw [BitVec.getLsbD, Nat.testBit_eq_decide_div_mod_eq, h]
  cases b <;> rfl

/-- A field read from the value as a number. -/
theorem extractLsb'_of_toNat {v : Word} {k n : Nat} {f : BitVec n} (h : v.toNat / 2 ^ k % 2 ^ n = f.toNat) :
    v.extractLsb' k n = f := by
  apply BitVec.eq_of_toNat_eq
  rw [BitVec.extractLsb'_toNat, Nat.shiftRight_eq_div_pow, h]

theorem toNat_setWidth64 {n : Nat} (f : BitVec n) (hn : n ≤ 64) : (f.setWidth 64).toNat = f.toNat := by
  rw [BitVec.toNat_setWidth, Nat.mod_eq_of_lt (Nat.lt_of_lt_of_le f.isLt (Nat.pow_le_pow_right (by decide) hn))]

theorem toNat_flag (b : Bool) : ((BitVec.ofBool b).setWidth 64 : Word).toNat = b.toNat := by cases b <;> rfl

/-- STATUS as a number (10_state.md R38). -/
theorem statusView_toNat (s : State) :
    s.statusView.toNat = s.busy.toNat + s.faulted.toNat * 2 ^ 1 + (dirCode s.chan.dir).toNat * 2 ^ 2
      + (errCode s.chan.err).toNat * 2 ^ 4 + s.chan.cursor.toNat * 2 ^ 6 := by
  have hbusy := Bool.toNat_lt s.busy
  have hfault := Bool.toNat_lt s.faulted
  have hdir := (dirCode s.chan.dir).isLt
  have herr := (errCode s.chan.err).isLt
  have hcur := s.chan.cursor.isLt
  refine toNat_or_field (toNat_or_field (toNat_or_field (toNat_or_field (toNat_flag _) (toNat_flag _) ?_ ?_)
    (toNat_setWidth64 _ (by decide)) ?_ ?_) (toNat_setWidth64 _ (by decide)) ?_ ?_) (toNat_setWidth64 _ (by decide)) ?_ ?_
  all_goals omega

/-- FAULT as a number (10_state.md R40). -/
theorem faultView_toNat (s : State) :
    s.faultView.toNat = (causeCode s.faultCause).toNat + s.faultWord.toNat * 2 ^ 8 := by
  have hcause := (causeCode s.faultCause).isLt
  have hword := s.faultWord.isLt
  refine toNat_or_field (toNat_setWidth64 _ (by decide)) (toNat_setWidth64 _ (by decide)) ?_ ?_
  all_goals omega

theorem toNat_param_byte {k : Nat} (h : k ≤ 64) : ((BitVec.ofNat 8 k).setWidth 64 : Word).toNat = k := by
  rw [toNat_setWidth64 _ (by decide), BitVec.toNat_ofNat]
  omega

/-- PARAM as a number, for legal parameters (10_state.md R39). -/
theorem paramView_toNat {p : Params} (h : p.wf = true) :
    (paramView p).toNat = p.logN + p.aw * 2 ^ 8 + p.debugVerify.toNat * 2 ^ 16 + p.matchJ0.toNat * 2 ^ 17
      + p.matchTie.toNat * 2 ^ 18 := by
  simp only [Params.wf, Params.logNWf, Params.awWf, Bool.and_eq_true, decide_eq_true_eq] at h
  obtain ⟨⟨-, hlog⟩, -, haw⟩ := h
  have hdebug := Bool.toNat_lt p.debugVerify
  have hj0 := Bool.toNat_lt p.matchJ0
  have htie := Bool.toNat_lt p.matchTie
  refine toNat_or_field (toNat_or_field (toNat_or_field (toNat_or_field (toNat_param_byte (by omega))
    (toNat_param_byte haw) ?_ ?_) (toNat_flag _) ?_ ?_) (toNat_flag _) ?_ ?_) (toNat_flag _) ?_ ?_
  all_goals omega

theorem statusView_fields (s : State) :
    s.statusView.getLsbD 0 = s.busy ∧ s.statusView.getLsbD 1 = decide (s.faultCause ≠ .none)
      ∧ s.statusView.extractLsb' 2 2 = dirCode s.chan.dir ∧ s.statusView.extractLsb' 4 2 = errCode s.chan.err
      ∧ s.statusView.extractLsb' 6 7 = s.chan.cursor ∧ s.statusView.toNat < 2 ^ 13 := by
  have hv := statusView_toNat s
  have hbusy := Bool.toNat_lt s.busy
  have hfault := Bool.toNat_lt s.faulted
  have hdir := (dirCode s.chan.dir).isLt
  have herr := (errCode s.chan.err).isLt
  have hcur := s.chan.cursor.isLt
  refine ⟨getLsbD_of_toNat ?_, getLsbD_of_toNat (b := s.faulted) ?_, extractLsb'_of_toNat ?_, extractLsb'_of_toNat ?_,
    extractLsb'_of_toNat ?_, ?_⟩
  all_goals omega

theorem faultView_fields (s : State) :
    s.faultView.extractLsb' 0 8 = causeCode s.faultCause ∧ s.faultView.extractLsb' 8 32 = s.faultWord
      ∧ s.faultView.toNat < 2 ^ 40 := by
  have hv := faultView_toNat s
  have hcause := (causeCode s.faultCause).isLt
  have hword := s.faultWord.isLt
  refine ⟨extractLsb'_of_toNat ?_, extractLsb'_of_toNat ?_, ?_⟩
  all_goals omega

theorem paramView_fields {p : Params} (h : p.wf = true) :
    (paramView p).toNat % 256 = p.logN ∧ (paramView p).toNat / 256 % 256 = p.aw
      ∧ (paramView p).getLsbD 16 = p.debugVerify ∧ (paramView p).getLsbD 17 = p.matchJ0
      ∧ (paramView p).getLsbD 18 = p.matchTie ∧ (paramView p).toNat < 2 ^ 19 := by
  have hv := paramView_toNat h
  simp only [Params.wf, Params.logNWf, Params.awWf, Bool.and_eq_true, decide_eq_true_eq] at h
  obtain ⟨⟨-, hlog⟩, -, haw⟩ := h
  have hdebug := Bool.toNat_lt p.debugVerify
  have hj0 := Bool.toNat_lt p.matchJ0
  have htie := Bool.toNat_lt p.matchTie
  refine ⟨?_, ?_, getLsbD_of_toNat ?_, getLsbD_of_toNat ?_, getLsbD_of_toNat ?_, ?_⟩
  all_goals omega

/-- Settles O11: each view as a number, its fields read off by division. -/
theorem statusFaultAndParamFields : Obligations.StatusFaultAndParamFields :=
  ⟨by decide, by decide, by decide, fun s => ⟨statusView_fields s, faultView_fields s, paramView_fields⟩⟩

/-! ## Issuing a command -/

/-- Settles O4: the pending write reaches CMD, is accepted, and its word decodes. -/
theorem stepRunsTheCommandWritten : Obligations.StepRunsTheCommandWritten := by
  intro s rest v i hp hbusy hfault hdec
  calc step s = act (.regWrite 64 (s.param.regBase + 0x08) v) { s with pending := rest } := by simp [step, hp]
    _ = hostWrite 0x08 v { s with pending := rest } := act_regWrite { s with pending := rest } v (by decide) (by decide)
    _ = runCommand v ({ s with pending := rest }.begin (v.setWidth 32)) := by
      simp [hostWrite, issue, State.faulted, hbusy, hfault]
    _ = exec i { s with pending := rest, busy := true, cmdWord := v.setWidth 32 } := runCommand_of_ok _ hdec

/-! ## Reset -/

theorem Fhu.empty_freqAt (p : Params) (k : Nat) : (Fhu.empty p).freqAt k = 0#64 := by
  simp only [Fhu.freqAt, Fhu.empty, List.getD_eq_getElem?_getD, List.getElem?_replicate]
  split <;> rfl

theorem Fhu.empty_symAt (p : Params) (k : Nat) : (Fhu.empty p).symAt k = internal := by
  simp only [Fhu.symAt, Fhu.empty, List.getD_eq_getElem?_getD, List.getElem?_replicate]
  split <;> rfl

theorem Fhu.empty_tableAt (p : Params) (j : Nat) : (Fhu.empty p).tableAt j = absent := by
  simp only [Fhu.tableAt, Fhu.empty, List.getD_eq_getElem?_getD, List.getElem?_replicate]
  split <;> rfl

theorem reset_faultView (p : Params) : (State.resetWith p).faultView = 0#64 :=
  show (causeCode .none).setWidth 64 ||| (0#32 : CmdWord).setWidth 64 <<< 8 = (0#64 : Word) by decide

/-- Settles O9: the arrays of reset read their reset value at every index. -/
theorem stateAfterReset : Obligations.StateAfterReset := by
  refine ⟨fun p => ?_, 16, 0, rfl⟩
  refine ⟨(Fhu.init_eq_empty p).symm, fun k => ⟨Fhu.empty_freqAt p k, Fhu.empty_symAt p k⟩, Fhu.empty_tableAt p, ?_⟩
  exact ⟨rfl, rfl, rfl, rfl, rfl, rfl, rfl, rfl, rfl, rfl, rfl, rfl, reset_faultView p, rfl, rfl⟩

end Sys2Proof.Machine
end

section
/-! The structure of the heap: the arrays, the symbol table and the dead slots as one predicate over a count of nodes, kept by
each micro-operation of the heap. A swap keeps it whatever the frequencies are, so a wrap does not matter. -/
namespace Sys2Proof.Machine

/-! ## Entries and bounds -/

theorem Params.n_le {p : Params} (h : p.wf = true) : p.n ≤ 2 ^ 30 := by
  simp only [Params.wf, Params.logNWf, Bool.and_eq_true, decide_eq_true_eq] at h
  exact Nat.pow_le_pow_right (by decide) h.1.2

theorem Params.cap_le {p : Params} (h : p.wf = true) : p.cap ≤ 2 ^ 31 := by
  have := Params.n_le h
  unfold Params.cap
  omega

theorem entryOf_toNat {k : Nat} (h : k < 2 ^ 31) : (entryOf k).toNat = k := by
  rw [entryOf, BitVec.toNat_ofNat]
  omega

theorem entryOf_ne_absent {k : Nat} (h : k < 2 ^ 31) : entryOf k ≠ absent := by
  intro he
  have hk := entryOf_toNat h
  rw [he] at hk
  simp only [absent, BitVec.toNat_ofNat] at hk
  omega

theorem entryOf_inj {j k : Nat} (hj : j < 2 ^ 31) (hk : k < 2 ^ 31) (h : entryOf j = entryOf k) : j = k := by
  rw [← entryOf_toNat hj, h, entryOf_toNat hk]

@[simp] theorem entryOf_toNat_self (e : Entry) : entryOf e.toNat = e := by simp [entryOf]

theorem Fhu.tableAt_outside {h : Fhu} {s : Nat} (hs : h.table.length ≤ s) : h.tableAt s = absent := by
  simp [Fhu.tableAt, List.getD_eq_getElem?_getD, List.getElem?_eq_none hs]

/-! ## The structure over the first `n` nodes -/

/-- The arrays have their lengths, the symbol table and the leaves below `n` point at each other, and the slots from `n` on are
clear: `T` and 40_heap.md R117 (c) with a count of nodes of its own, since HEAP.ADD sifts a first leaf before it counts it. -/
structure Fhu.Linked (p : Params) (n : Nat) (h : Fhu) : Prop where
  legal : p.wf = true
  bound : n ≤ p.cap
  freqLength : h.freq.length = p.cap
  symLength : h.sym.length = p.cap
  tableLength : h.table.length = p.n
  entry : ∀ s, s < p.n → h.tableAt s ≠ absent → (h.tableAt s).toNat < n ∧ h.symAt (h.tableAt s).toNat = entryOf s
  leaf : ∀ ix, ix < n → h.symAt ix ≠ internal → h.tableAt (h.symAt ix).toNat = entryOf ix
  dead : ∀ k, n ≤ k → h.freqAt k = 0#64 ∧ h.symAt k = internal

section Linked
variable {p : Params} {n : Nat} {h g : Fhu}

/-- A live index is a positive `s32`. -/
theorem Fhu.Linked.index_lt (hl : h.Linked p n) {ix : Nat} (hix : ix < n) : ix < 2 ^ 31 :=
  Nat.lt_of_lt_of_le hix (Nat.le_trans hl.bound (Params.cap_le hl.legal))

theorem Fhu.Linked.symbol_lt (hl : h.Linked p n) {s : Nat} (hs : s < p.n) : s < 2 ^ 31 := by
  have := Params.n_le hl.legal
  omega

/-- The symbol of a live leaf is a symbol id: a table entry outside the table would be absent. -/
theorem Fhu.Linked.leaf_symbol (hl : h.Linked p n) {ix : Nat} (hix : ix < n) (hleaf : h.symAt ix ≠ internal) :
    (h.symAt ix).toNat < p.n := by
  by_contra hout
  have habs := Fhu.tableAt_outside (h := h) (s := (h.symAt ix).toNat) (by rw [hl.tableLength]; omega)
  exact entryOf_ne_absent (hl.index_lt hix) ((hl.leaf ix hix hleaf).symm.trans habs)

/-- Each symbol has one live leaf. -/
theorem Fhu.Linked.leaf_unique (hl : h.Linked p n) {a b : Nat} (ha : a < n) (hb : b < n)
    (hleaf : h.symAt a ≠ internal) (heq : h.symAt a = h.symAt b) : a = b := by
  refine entryOf_inj (hl.index_lt ha) (hl.index_lt hb) ?_
  rw [← hl.leaf a ha hleaf, heq, hl.leaf b hb (heq ▸ hleaf)]

/-- The table after a swap of two live nodes: their symbols are retargeted, every other entry stays (40_heap.md R101). -/
theorem Fhu.Linked.swap_tableAt (hl : h.Linked p n) {a b : Nat} (ha : a < n) (hb : b < n) (hab : a ≠ b) {s : Nat}
    (hs : s < p.n) :
    (h.swap a b).tableAt s
      = if h.symAt a = entryOf s then entryOf b else if h.symAt b = entryOf s then entryOf a else h.tableAt s := by
  have hnot : entryOf s ≠ internal := entryOf_ne_absent (hl.symbol_lt hs)
  have key : ∀ e : Entry, (e.toNat = s ∧ s < h.table.length) ↔ e = entryOf s := by
    intro e
    rw [hl.tableLength]
    constructor
    · rintro ⟨rfl, -⟩; simp
    · rintro rfl; exact ⟨entryOf_toNat (hl.symbol_lt hs), hs⟩
  change (h.swapTable a b).tableAt s = _
  unfold Fhu.swapTable
  dsimp only
  by_cases hsa : h.symAt a = internal
  · have h1 : h.symAt a ≠ entryOf s := fun he => hnot (he.symm.trans hsa)
    by_cases hsb : h.symAt b = internal
    · have h2 : h.symAt b ≠ entryOf s := fun he => hnot (he.symm.trans hsb)
      simp [hsa, hsb, hnot.symm]
    · simp [hsa, hsb, key, hnot.symm]
  · by_cases hsb : h.symAt b = internal
    · simp [hsa, hsb, key, hnot.symm]
    · have hne : h.symAt a ≠ h.symAt b := fun he => hab (hl.leaf_unique ha hb hsa he)
      have hta := hl.leaf a ha hsa
      have htb := hl.leaf b hb hsb
      simp only [ne_eq, hsa, hsb, not_false_eq_true, and_self, if_true, Fhu.setTable_tableAt, Fhu.setTable_length, key,
        hta, htb]
      split
      next hb' => rw [if_neg (fun ha' => hne (ha'.trans hb'.symm))]
      next => rfl

/-! ## What each micro-operation keeps -/

/-- `g` comes from `h` by operations that keep the structure over `n` nodes, the set of inserted symbols and NC. -/
structure Fhu.Keeps (p : Params) (n : Nat) (h g : Fhu) : Prop where
  linked : g.Linked p n
  inserted : ∀ s, s < p.n → (g.tableAt s = absent ↔ h.tableAt s = absent)
  nc : g.nc = h.nc

theorem Fhu.Keeps.refl (hl : h.Linked p n) : Fhu.Keeps p n h h := ⟨hl, fun _ _ => Iff.rfl, rfl⟩

theorem Fhu.Keeps.trans {f : Fhu} (hg : Fhu.Keeps p n h g) (hf : Fhu.Keeps p n g f) : Fhu.Keeps p n h f :=
  ⟨hf.linked, fun s hs => (hf.inserted s hs).trans (hg.inserted s hs), hf.nc.trans hg.nc⟩

/-- A swap of two live nodes keeps the structure (40_heap.md R101). -/
theorem Fhu.Linked.swap (hl : h.Linked p n) {a b : Nat} (ha : a < n) (hb : b < n) (hab : a ≠ b) :
    Fhu.Keeps p n h (h.swap a b) := by
  have hcap := hl.bound
  have hsym := Fhu.swap_symAt (h := h) (a := a) (b := b) (by rw [hl.symLength]; omega) (by rw [hl.symLength]; omega)
  have hfreq := Fhu.swap_freqAt (h := h) (a := a) (b := b) (by rw [hl.freqLength]; omega) (by rw [hl.freqLength]; omega)
  have htab := fun {s : Nat} (hs : s < p.n) => hl.swap_tableAt ha hb hab hs
  have ha31 := hl.index_lt ha
  have hb31 := hl.index_lt hb
  refine ⟨⟨hl.legal, hcap, by simp [hl.freqLength], by simp [hl.symLength], by simp [hl.tableLength], ?_, ?_, ?_⟩, ?_,
    Fhu.swap_nc h a b⟩
  · intro s hs hne
    rw [htab hs] at hne ⊢
    split
    next hsa => rw [entryOf_toNat hb31, hsym, if_neg (Ne.symm hab), if_pos rfl]; exact ⟨hb, hsa⟩
    next hsa =>
      rw [if_neg hsa] at hne
      split
      next hsb => rw [entryOf_toNat ha31, hsym, if_pos rfl]; exact ⟨ha, hsb⟩
      next hsb =>
        rw [if_neg hsb] at hne
        obtain ⟨hlt, hs'⟩ := hl.entry s hs hne
        have hka : (h.tableAt s).toNat ≠ a := fun he => hsa (he ▸ hs')
        have hkb : (h.tableAt s).toNat ≠ b := fun he => hsb (he ▸ hs')
        rw [hsym, if_neg hka, if_neg hkb]
        exact ⟨hlt, hs'⟩
  · intro ix hix hleaf
    rw [hsym] at hleaf ⊢
    split at hleaf
    next hxa =>
      have hne : h.symAt a ≠ h.symAt b := fun he => hab.symm (hl.leaf_unique hb ha hleaf he.symm)
      rw [if_pos hxa, htab (hl.leaf_symbol hb hleaf), entryOf_toNat_self, if_neg hne, if_pos rfl, hxa]
    next hxa =>
      rw [if_neg hxa]
      split at hleaf
      next hxb => rw [if_pos hxb, htab (hl.leaf_symbol ha hleaf), entryOf_toNat_self, if_pos rfl, hxb]
      next hxb =>
        have hna : h.symAt a ≠ h.symAt ix := fun he => hxa (hl.leaf_unique hix ha hleaf he.symm)
        have hnb : h.symAt b ≠ h.symAt ix := fun he => hxb (hl.leaf_unique hix hb hleaf he.symm)
        rw [if_neg hxb, htab (hl.leaf_symbol hix hleaf), entryOf_toNat_self, if_neg hna, if_neg hnb, hl.leaf ix hix hleaf]
  · intro k hk
    obtain ⟨hf, hs⟩ := hl.dead k hk
    rw [hfreq, hsym, if_neg (by omega), if_neg (by omega), if_neg (by omega), if_neg (by omega)]
    exact ⟨hf, hs⟩
  · intro s hs
    have present : ∀ {x}, x < n → h.symAt x = entryOf s → h.tableAt s ≠ absent := by
      intro x hx he
      have hlive := hl.leaf x hx (he ▸ entryOf_ne_absent (hl.symbol_lt hs))
      rw [he, entryOf_toNat (hl.symbol_lt hs)] at hlive
      rw [hlive]
      exact entryOf_ne_absent (hl.index_lt hx)
    rw [htab hs]
    split
    next hsa => exact iff_of_false (entryOf_ne_absent hb31) (present ha hsa)
    next =>
      split
      next hsb => exact iff_of_false (entryOf_ne_absent ha31) (present hb hsb)
      next => exact Iff.rfl

/-- A new frequency for a live node keeps the structure. -/
theorem Fhu.Linked.setFreq (hl : h.Linked p n) {k : Nat} (hk : k < n) (v : Word) :
    Fhu.Keeps p n h (h.setFreq k v) := by
  refine ⟨⟨hl.legal, hl.bound, by simp [hl.freqLength], hl.symLength, hl.tableLength, hl.entry, hl.leaf, ?_⟩,
    fun _ _ => Iff.rfl, rfl⟩
  intro j hj
  rw [Fhu.setFreq_freqAt, if_neg (by omega)]
  exact hl.dead j hj

/-- In a linked heap the last step of `siftUp` writes what the table holds (40_heap.md R102). -/
theorem Fhu.Linked.fixEntry_eq (hl : h.Linked p n) {ix : Nat} (hix : ix < n) : h.fixEntry ix = h := by
  unfold Fhu.fixEntry
  split
  next hleaf =>
    have hlt : (h.symAt ix).toNat < h.table.length := by rw [hl.tableLength]; exact hl.leaf_symbol hix hleaf
    have hself : h.table[(h.symAt ix).toNat] = entryOf ix := by
      rw [← hl.leaf ix hix hleaf, Fhu.tableAt, List.getD_eq_getElem _ _ hlt]
    rw [Fhu.setTable, ← hself, List.set_getElem_self]
  next => rfl

/-- `siftUp` keeps the structure and ends at a live index (40_heap.md R102). -/
theorem Fhu.Linked.siftUp (hl : h.Linked p n) {ix : Nat} (hix : ix < n) :
    (h.siftUp ix).1 < n ∧ Fhu.Keeps p n h (h.siftUp ix).2 := by
  have loop : (Fhu.siftUpLoop ix ix h).1 < n ∧ Fhu.Keeps p n h (Fhu.siftUpLoop ix ix h).2 := by
    refine Fhu.siftUpLoop_induct (P := fun k g => k < n ∧ Fhu.Keeps p n h g) ?_ ix ⟨hix, .refl hl⟩
    rintro k g ⟨hk, hg⟩ hpos -
    have hparent : parentIx k < k := by unfold parentIx; omega
    exact ⟨by omega, hg.trans (hg.linked.swap hk (by omega) (by omega))⟩
  refine ⟨loop.1, ?_⟩
  rw [Fhu.siftUp, loop.2.linked.fixEntry_eq loop.1]
  exact loop.2

/-- `siftDown` keeps the structure and ends at a live index (40_heap.md R103). -/
theorem Fhu.Linked.siftDown (hl : h.Linked p n) (hnc : h.nc.toNat ≤ n) {ix : Nat} (hix : ix < n) :
    (h.siftDown ix).1 < n ∧ Fhu.Keeps p n h (h.siftDown ix).2 := by
  refine Fhu.siftDownLoop_induct (P := fun k g => k < n ∧ Fhu.Keeps p n h g) ?_ h.nc.toNat ⟨hix, .refl hl⟩
  rintro k g ⟨hk, hg⟩ hleft -
  have hnc' : g.nc.toNat ≤ n := hg.nc ▸ hnc
  have hchild : k < g.largerChild k ∧ g.largerChild k < n := by
    rcases g.largerChild_cases k with ⟨he, hlt⟩ | he <;> rw [he]
    · exact ⟨by unfold rightIx; omega, by omega⟩
    · exact ⟨by unfold leftIx; omega, by omega⟩
  exact ⟨hchild.2, hg.trans (hg.linked.swap hk hchild.2 (by omega))⟩

/-- The ancestor recompute writes live frequencies only (40_heap.md R112). -/
theorem Fhu.Linked.recompute (fuel : Nat) {a : Nat} (hl : h.Linked p n) (ha : a < n) :
    Fhu.Keeps p n h (Fhu.recompute fuel a h) := by
  induction fuel generalizing a h with
  | zero => exact .refl hl
  | succ fuel ih =>
    unfold Fhu.recompute
    split
    next hpos =>
      have hparent : parentIx a < n := by unfold parentIx; omega
      have hset := hl.setFreq hparent
        (h.liveFreqAt (leftIx (parentIx a)) + h.liveFreqAt (rightIx (parentIx a)))
      exact hset.trans (ih hset.linked hparent)
    next => exact .refl hl

/-- HEAP.INC keeps the structure (40_heap.md R112). -/
theorem Fhu.Linked.bump (hl : h.Linked p n) (hnc : h.nc.toNat ≤ n) {k : Nat} (hk : k < n) :
    Fhu.Keeps p n h (h.bump k).2 := by
  have hset := hl.setFreq hk (h.freqAt k + 1#64)
  obtain ⟨hd, hdown⟩ := hset.linked.siftDown hnc hk
  obtain ⟨hu, hup⟩ := hdown.linked.siftUp hd
  exact hset.trans (hdown.trans (hup.trans (hup.linked.recompute _ hu)))

/-! ## HEAP.ADD -/

theorem Fhu.Linked.incNc (hl : h.Linked p n) : h.incNc.Linked p n :=
  ⟨hl.legal, hl.bound, hl.freqLength, hl.symLength, hl.tableLength, hl.entry, hl.leaf, hl.dead⟩

/-- NC counts one node more, without a wrap (10_state.md R24). -/
theorem Fhu.Linked.incNc_toNat (hl : h.Linked p (n + 1)) (hnc : h.nc.toNat = n) : h.incNc.nc.toNat = n + 1 := by
  have := hl.index_lt (Nat.lt_succ_self n)
  rw [Fhu.incNc_nc, BitVec.toNat_add, hnc]
  simp only [BitVec.toNat_ofNat]
  omega

/-- An internal node appended at the first dead slot (40_heap.md R111). -/
theorem Fhu.Linked.appendInternal (hl : h.Linked p n) (hcap : n < p.cap) (v : Word) :
    ((h.setFreq n v).setSym n internal).Linked p (n + 1)
      ∧ ∀ s, ((h.setFreq n v).setSym n internal).tableAt s = h.tableAt s := by
  have hsym : ∀ k, ((h.setFreq n v).setSym n internal).symAt k = h.symAt k := by
    intro k
    rw [Fhu.setSym_symAt]
    split
    next hk => rw [← hk.1, (hl.dead n (le_refl n)).2]
    next => rfl
  refine ⟨⟨hl.legal, hcap, by simp [hl.freqLength], by simp [hl.symLength], hl.tableLength, ?_, ?_, ?_⟩, fun _ => rfl⟩
  · intro s hs hne
    obtain ⟨hlt, he⟩ := hl.entry s hs hne
    exact ⟨Nat.lt_succ_of_lt hlt, (hsym _).trans he⟩
  · intro ix hix hleaf
    rw [hsym] at hleaf ⊢
    rcases Nat.lt_succ_iff_lt_or_eq.1 hix with hlt | rfl
    · exact hl.leaf ix hlt hleaf
    · exact absurd (hl.dead ix (le_refl ix)).2 hleaf
  · intro k hk
    rw [hsym, Fhu.setSym_freqAt, Fhu.setFreq_freqAt, if_neg (by omega)]
    exact hl.dead k (by omega)

/-- A leaf for an absent symbol placed at the first dead slot (40_heap.md R111). -/
theorem Fhu.Linked.placeLeaf (hl : h.Linked p n) (hnc : h.nc.toNat = n) (hcap : n < p.cap) {s : Nat} (hs : s < p.n)
    (habs : h.tableAt s = absent) :
    (h.placeLeaf s).Linked p (n + 1)
      ∧ ∀ j, j < p.n → ((h.placeLeaf s).tableAt j = absent ↔ j ≠ s ∧ h.tableAt j = absent) := by
  have hn31 : n < 2 ^ 31 := Nat.lt_of_lt_of_le hcap (Params.cap_le hl.legal)
  have hs31 := hl.symbol_lt hs
  have htab : ∀ j, (h.placeLeaf s).tableAt j = if j = s then entryOf n else h.tableAt j := by
    intro j
    simp only [Fhu.placeLeaf, hnc, Fhu.setTable_tableAt, Fhu.setSym_table, Fhu.setFreq_table, hl.tableLength]
    by_cases hj : j = s
    · simp [hj, hs]
    · simp [hj, Ne.symm hj]
  have hsym : ∀ k, (h.placeLeaf s).symAt k = if k = n then entryOf s else h.symAt k := by
    intro k
    simp only [Fhu.placeLeaf, hnc, Fhu.setTable_symAt, Fhu.setSym_symAt, Fhu.setFreq_sym, hl.symLength, Fhu.setFreq_symAt]
    by_cases hk : k = n
    · simp [hk, hcap]
    · simp [hk, Ne.symm hk]
  refine ⟨⟨hl.legal, hcap, by simp [Fhu.placeLeaf, hl.freqLength], by simp [Fhu.placeLeaf, hl.symLength],
    by simp [Fhu.placeLeaf, hl.tableLength], ?_, ?_, ?_⟩, ?_⟩
  · intro j hj hne
    rw [htab] at hne ⊢
    split at hne
    next he => rw [if_pos he, entryOf_toNat hn31, hsym, if_pos rfl, he]; exact ⟨Nat.lt_succ_self n, rfl⟩
    next he =>
      obtain ⟨hlt, hj'⟩ := hl.entry j hj hne
      rw [if_neg he, hsym, if_neg (by omega)]
      exact ⟨Nat.lt_succ_of_lt hlt, hj'⟩
  · intro ix hix hleaf
    rw [hsym] at hleaf ⊢
    split at hleaf
    next he => rw [if_pos he, htab, entryOf_toNat hs31, if_pos rfl, he]
    next he =>
      have hlt : ix < n := by omega
      have hlive := hl.leaf ix hlt hleaf
      have hne : (h.symAt ix).toNat ≠ s := by
        intro heq
        rw [heq, habs] at hlive
        exact entryOf_ne_absent (hl.index_lt hlt) hlive.symm
      rw [if_neg he, htab, if_neg hne, hlive]
  · intro k hk
    rw [hsym, if_neg (by omega)]
    refine ⟨?_, (hl.dead k (by omega)).2⟩
    simp only [Fhu.placeLeaf, hnc, Fhu.setTable_freqAt, Fhu.setSym_freqAt]
    rw [Fhu.setFreq_freqAt, if_neg (by omega)]
    exact (hl.dead k (by omega)).1
  · intro j _
    rw [htab]
    split
    next he => exact iff_of_false (entryOf_ne_absent hn31) (fun h => h.1 he)
    next he => exact (and_iff_right he).symm

/-- The merge appends one internal node and keeps the structure and the inserted symbols (40_heap.md R111). -/
theorem Fhu.Linked.merge (hl : h.Linked p n) (hnc : h.nc.toNat = n) (hcap : n < p.cap) (htwo : 2 ≤ n) :
    h.merge.Linked p (n + 1) ∧ (∀ s, s < p.n → (h.merge.tableAt s = absent ↔ h.tableAt s = absent))
      ∧ h.merge.nc.toNat = n + 1 := by
  obtain ⟨happ, htab⟩ := hl.appendInternal hcap (h.freqAt (n - 2) + h.freqAt (n - 1))
  have hcount := happ.incNc_toNat (n := n) hnc
  obtain ⟨-, h2⟩ := happ.incNc.siftDown (ix := n - 2) (by omega) (by omega)
  obtain ⟨-, h3⟩ := h2.linked.siftDown (ix := n - 1) (by rw [h2.nc]; omega) (by omega)
  obtain ⟨-, h4⟩ := h3.linked.siftUp (ix := n) (by omega)
  have hall := h2.trans (h3.trans h4)
  rw [Fhu.merge, hnc]
  refine ⟨hall.linked, fun s hs => ?_, ?_⟩
  · rw [hall.inserted s hs, Fhu.incNc_tableAt, htab]
  · exact (congrArg BitVec.toNat hall.nc).trans hcount

/-- HEAP.ADD appends its nodes, inserts its symbol and keeps the structure (40_heap.md R111). -/
theorem Fhu.Linked.add (hl : h.Linked p h.nc.toNat) (hcap : h.nc.toNat + h.need ≤ p.cap) {s : Nat} (hs : s < p.n)
    (habs : h.tableAt s = absent) :
    (h.add s).2.Linked p (h.nc.toNat + h.need)
      ∧ (∀ j, j < p.n → ((h.add s).2.tableAt j = absent ↔ j ≠ s ∧ h.tableAt j = absent))
      ∧ (h.add s).2.nc.toNat = h.nc.toNat + h.need := by
  by_cases htwo : h.nc.toNat < 2
  · have hneed : h.need = 1 := if_pos htwo
    rw [hneed] at hcap ⊢
    obtain ⟨hplace, htab⟩ := hl.placeLeaf rfl (by omega) hs habs
    obtain ⟨-, hup⟩ := hplace.siftUp (ix := h.nc.toNat) (by omega)
    rw [Fhu.add, if_pos htwo]
    refine ⟨hup.linked.incNc, fun j hj => ?_, hup.linked.incNc_toNat (by rw [hup.nc]; rfl)⟩
    exact (hup.inserted j hj).trans (htab j hj)
  · have hneed : h.need = 2 := if_neg htwo
    rw [hneed] at hcap ⊢
    obtain ⟨hmerge, hmtab, hmnc⟩ := hl.merge rfl (by omega) (by omega)
    obtain ⟨hplace, htab⟩ := hmerge.placeLeaf hmnc (by omega) hs ((hmtab s hs).2 habs)
    obtain ⟨-, hup⟩ := hplace.incNc.siftUp (ix := h.nc.toNat + 1) (by omega)
    rw [Fhu.add, if_neg htwo]
    dsimp only
    rw [hmnc]
    refine ⟨hup.linked, fun j hj => ?_, ?_⟩
    · rw [hup.inserted j hj, Fhu.incNc_tableAt, htab j hj, hmtab j hj]
    · rw [hup.nc, hplace.incNc_toNat hmnc]

end Linked

/-! ## The count of the inserted symbols -/

section Count
variable {p : Params} {h g : Fhu}

theorem Fhu.count_congr (heq : ∀ s, s < p.n → (g.tableAt s = absent ↔ h.tableAt s = absent)) : g.count p = h.count p := by
  unfold Fhu.count
  congr 1
  refine List.filter_congr fun s hs => ?_
  simp [bne, Bool.beq_eq_decide_eq, heq s (List.mem_range.1 hs)]

/-- One symbol more makes the count one more. -/
theorem Fhu.count_insert {s : Nat} (hs : s < p.n) (habs : h.tableAt s = absent)
    (heq : ∀ j, j < p.n → (g.tableAt j = absent ↔ j ≠ s ∧ h.tableAt j = absent)) : g.count p = h.count p + 1 := by
  have upTo : ∀ m, m ≤ p.n → ((List.range m).filter (fun j => g.tableAt j != absent)).length
      = ((List.range m).filter (fun j => h.tableAt j != absent)).length + if s < m then 1 else 0 := by
    intro m
    induction m with
    | zero => simp
    | succ m ih =>
      intro hm
      have hmm := heq m (by omega)
      rw [List.range_succ, List.filter_append, List.filter_append, List.length_append, List.length_append, ih (by omega)]
      have last : ((List.filter (fun j => g.tableAt j != absent) [m]).length : Nat)
          = (List.filter (fun j => h.tableAt j != absent) [m]).length + if m = s then 1 else 0 := by
        by_cases hms : m = s
        · have hg : g.tableAt m ≠ absent := fun hm => (hmm.1 hm).1 hms
          simp [hms ▸ hg, habs, hms]
        · have hiff : g.tableAt m = absent ↔ h.tableAt m = absent := by rw [hmm, and_iff_right hms]
          simp [hms, List.filter_cons, hiff]
      rw [last]
      split_ifs <;> omega
  rw [Fhu.count, upTo p.n (le_refl _), if_pos hs, Fhu.count]

theorem nodesAfter_succ (k : Nat) : nodesAfter (k + 1) = nodesAfter k + if nodesAfter k < 2 then 1 else 2 := by
  unfold nodesAfter
  repeat' split
  all_goals omega

theorem Fhu.count_le (p : Params) (h : Fhu) : h.count p ≤ p.n := by
  simpa [Fhu.count] using List.length_filter_le (fun s => h.tableAt s != absent) (List.range p.n)

/-- A table entry as an `s32` in `[0, n)`, as `T` bounds it, and as an index. -/
theorem entry_bounds {e : Entry} {n : Nat} (hn : n ≤ 2 ^ 31) : 0 ≤ e.toInt ∧ e.toInt < n ↔ e.toNat < n := by
  have := e.isLt
  rw [BitVec.toInt_eq_toNat_cond]
  split <;> omega

/-- The structural invariant is the linked structure over NC nodes, with NC as the adds made it. -/
theorem fhuOk_iff : FhuOk p h ↔ h.Linked p h.nc.toNat ∧ h.nc.toNat = nodesAfter (h.count p) := by
  constructor
  · rintro ⟨hwf, hfreq, hsym, htab, ⟨hentry, hleaf⟩, hdead, hnc⟩
    have hcap : h.nc.toNat ≤ p.cap := by
      have := h.count_le p
      rw [hnc, nodesAfter, Params.cap]
      split <;> omega
    have hn : h.nc.toNat ≤ 2 ^ 31 := Nat.le_trans hcap (Params.cap_le hwf)
    refine ⟨⟨hwf, hcap, hfreq, hsym, htab, fun s hs hne => ?_, hleaf, hdead⟩, hnc⟩
    obtain ⟨hlow, hhigh, hs'⟩ := hentry s hs hne
    exact ⟨(entry_bounds hn).1 ⟨hlow, hhigh⟩, hs'⟩
  · rintro ⟨hl, hnc⟩
    have hn : h.nc.toNat ≤ 2 ^ 31 := Nat.le_trans hl.bound (Params.cap_le hl.legal)
    refine ⟨hl.legal, hl.freqLength, hl.symLength, hl.tableLength, ⟨fun s hs hne => ?_, hl.leaf⟩, hl.dead, hnc⟩
    obtain ⟨hlt, hs'⟩ := hl.entry s hs hne
    obtain ⟨hlow, hhigh⟩ := (entry_bounds hn).2 hlt
    exact ⟨hlow, hhigh, hs'⟩

end Count

/-! ## The invariant -/

section Invariant
variable {p : Params} {h g : Fhu}

theorem fhuOk_empty (hp : p.wf = true) : FhuOk p (Fhu.empty p) := by
  refine ⟨hp, by simp [Fhu.empty], by simp [Fhu.empty], by simp [Fhu.empty], ⟨?_, ?_⟩, ?_, ?_⟩
  · intro s _ hne
    exact absurd (Fhu.empty_tableAt p s) hne
  · intro ix hix
    exact absurd hix (Nat.not_lt_zero ix)
  · exact fun k _ => ⟨Fhu.empty_freqAt p k, Fhu.empty_symAt p k⟩
  · have hcount : (Fhu.empty p).count p = 0 := by simp [Fhu.count, Fhu.empty_tableAt]
    rw [hcount]
    rfl

/-- What keeps the structure, the inserted symbols and NC keeps the invariant. -/
theorem Fhu.Keeps.fhuOk (hk : Fhu.Keeps p h.nc.toNat h g) (hok : FhuOk p h) : FhuOk p g := by
  rw [fhuOk_iff] at hok ⊢
  rw [hk.nc, Fhu.count_congr hk.inserted]
  exact ⟨hk.linked, hok.2⟩

theorem FhuOk.add (hok : FhuOk p h) {s : Nat} (hs : s < p.n) (habs : h.tableAt s = absent)
    (hcap : h.nc.toNat + h.need ≤ p.cap) : FhuOk p (h.add s).2 := by
  obtain ⟨hl, hnc⟩ := fhuOk_iff.1 hok
  obtain ⟨hadd, htab, hcount⟩ := hl.add hcap hs habs
  rw [fhuOk_iff, hcount, Fhu.count_insert hs habs htab, nodesAfter_succ, ← hnc]
  exact ⟨hadd, rfl⟩

theorem FhuOk.bump (hok : FhuOk p h) {s : Nat} (hs : s < p.n) (hne : h.tableAt s ≠ absent) :
    FhuOk p (h.bump (h.tableAt s).toNat).2 := by
  obtain ⟨hl, -⟩ := fhuOk_iff.1 hok
  exact (hl.bump (le_refl _) (hl.entry s hs hne).1).fhuOk hok

/-- Every command keeps the invariant. -/
theorem HeapEffect.fhuOk {i : Instr} {s : State} (he : HeapEffect i s g) (hok : FhuOk s.param s.fhu) : FhuOk s.param g := by
  cases he with
  | same => exact hok
  | init _ => rw [Fhu.init_eq_empty]; exact fhuOk_empty hok.1
  | add _ hs habs hcap => exact hok.add hs habs hcap
  | inc _ hs hne => exact hok.bump hs hne

end Invariant

/-- Settles O59: of the shapes of a step only a command's heap effect and a reset touch the heap. -/
theorem stepKeepsTheHeapStructure : Obligations.StepKeepsTheHeapStructure := by
  intro s t hok h
  cases step_stepped h with
  | accessed ht => rw [ht]; exact hok
  | dropped rest _ => simpa [State.busyWrite] using hok
  | ran hu he =>
    rw [he.param]
    exact he.fhu.fhuOk (by rw [hu.param, hu.fhu]; exact hok)
  | misnamed hu _ => simpa [hu.param, hu.fhu] using hok
  | reset _ => exact fhuOk_empty hok.1

/-- Settles O60: the heap of reset has no live node, so its clauses but the clear slots hold of nothing. -/
theorem invariantsHoldAfterReset : Obligations.InvariantsHoldAfterReset := by
  intro p hp
  have hmem : (State.resetWith p).MemOk := ⟨Memory.wf_nil, by simp [State.resetWith]⟩
  have hsession : (State.resetWith p).SessionOk := ⟨rfl, by simp [Channel.Ok, State.resetWith], fun _ => rfl⟩
  refine ⟨hmem, hsession, fhuOk_empty hp, ?_, ?_⟩
  · exact fun _ c _ hc => absurd hc (Nat.not_lt_zero c)
  · intro k
    rw [State.resetWith, Fhu.empty_freqAt]
    decide

end Sys2Proof.Machine
end

section
/-! CX.COMPRESS: its token loop writes one stream of bits, and the stream is packed 64 bits a word until the host refuses one. -/
namespace Sys2Proof.Machine

/-! ## Bit streams -/

/-- A stream of bits written one after another (20_memory.md R65). -/
def writeStream (bits : List Bool) (c : Channel) : Channel := bits.foldl (fun d b => writeBit b d) c

section Stream
variable {c : Channel}

theorem writeStream_cons (b : Bool) (bits : List Bool) (c : Channel) :
    writeStream (b :: bits) c = writeStream bits (writeBit b c) := rfl

theorem writeStream_append (xs ys : List Bool) (c : Channel) :
    writeStream (xs ++ ys) c = writeStream ys (writeStream xs c) := List.foldl_append

theorem writeStream_concat (bits : List Bool) (b : Bool) (c : Channel) :
    writeStream (bits ++ [b]) c = writeBit b (writeStream bits c) := writeStream_append bits [b] c

/-- With an error set nothing of a stream is written. -/
theorem writeStream_of_err (h : c.err ≠ .clear) (bits : List Bool) : writeStream bits c = c := by
  induction bits with
  | nil => rfl
  | cons b bits ih => rw [writeStream_cons, writeBit_of_err h, ih]

theorem lowBits_succ (v : Word) (n : Nat) : lowBits v (n + 1) = lowBits v n ++ [v.getLsbD n] := by
  simp [lowBits, List.range_succ]

/-- `writeBits` writes the low bits (41_bitchannel.md R141). -/
theorem writeBits_eq_stream (v : Word) (n : Nat) (c : Channel) : writeBits v n c = writeStream (lowBits v n) c := by
  induction n with
  | zero => rfl
  | succ n ih => rw [lowBits_succ, writeStream_concat, ← ih]; rfl

/-- `writeNumber` writes the code of the number (41_bitchannel.md R142, 30_encoding.md R89). -/
theorem writeNumber_eq_stream (v : Word) (base : Nat) (c : Channel) :
    writeNumber v base c = writeStream (vlCode base v) c := by
  unfold writeNumber vlCode
  generalize 64 = fuel
  induction fuel generalizing v c with
  | zero => rfl
  | succ fuel ih =>
    unfold writeNumberLoop vlRounds
    dsimp only
    rw [writeStream_append, writeStream_cons, ← writeBits_eq_stream]
    split
    · rfl
    · exact ih _ _

/-- A literal's bits (42_codec.md R174). -/
theorem emitLiteral_eq_stream (base : Nat) (b : Byte) (c : Channel) :
    emitLiteral b c = writeStream ((Token.literal b).code base) c := by
  unfold emitLiteral Token.code
  rw [writeStream_append, ← writeBits_eq_stream]
  dsimp only
  split <;> rfl

/-- A match's bits (42_codec.md R174). -/
theorem emitMatch_eq_stream (base pos len : Nat) (c : Channel) :
    emitMatch base pos len c = writeStream ((Token.backRef (zext64 pos) (zext64 len)).code base) c := by
  unfold emitMatch Token.code
  rw [writeStream_append, writeStream_append, ← writeNumber_eq_stream, ← writeNumber_eq_stream]
  rfl

end Stream

/-! ## Packing a stream into words -/

/-- A bit placed below 64 is appended to those in ACC (41_bitchannel.md R140). -/
theorem lowBits_placeBit {c : Channel} (h : c.WriterOk) (hlt : c.cursor.toNat < 64) (b : Bool) :
    lowBits (placeBit b c).acc (placeBit b c).cursor.toNat = lowBits c.acc c.cursor.toNat ++ [b] := by
  have hk : (placeBit b c).cursor.toNat = c.cursor.toNat + 1 := cursor_add_one h.1
  have hacc : c.acc[c.cursor.toNat] = false := Nat.testBit_lt_two_pow h.2
  rw [hk, lowBits_succ]
  congr 1
  · refine List.map_congr_left fun j hj => ?_
    have hj' := List.mem_range.1 hj
    simp [placeBit, hj']
  · simp [placeBit, hacc, hlt]

/-- From the fresh session `c0` the bits were written with `d` words accepted: the rest of them stands in ACC. -/
structure Packed (c0 : Channel) (bits : List Bool) (d : Nat) (c : Channel) : Prop where
  err : c.err = .clear
  words : c.words = c0.words + BitVec.ofNat 64 d
  answers : c0.port.writeAnswers = List.replicate d .ok ++ c.port.writeAnswers
  length : bits.length = 64 * d + c.cursor.toNat
  ok : c.WriterOk
  pending : lowBits c.acc c.cursor.toNat = bits.drop (64 * d)

/-- The word of the stream that begins at bit `64 * k` was refused: it stands in ACC with its length in CURSOR. -/
structure RefusedWord (c0 : Channel) (bits : List Bool) (k : Nat) (c : Channel) : Prop where
  err : c.err = .ioFailure
  words : c.words = c0.words + BitVec.ofNat 64 (k + 1)
  cursor : c.cursor.toNat = min 64 (bits.length - 64 * k)
  pending : lowBits c.acc c.cursor.toNat = (bits.drop (64 * k)).take 64
  acc : c.acc.toNat < 2 ^ c.cursor.toNat

section Packing
variable {c0 c : Channel} {bits : List Bool} {d k : Nat} {more : List WriteAnswer}

theorem Port.nextWrite_cons {p : Port} {a : WriteAnswer} (h : p.writeAnswers = a :: more) : p.nextWrite = a := by
  simp [Port.nextWrite, h]

theorem Port.afterWrite_writeAnswers {p : Port} {a : WriteAnswer} (h : p.writeAnswers = a :: more) (w : Word) :
    (p.afterWrite w).writeAnswers = more := by
  simp [Port.afterWrite, h]

theorem packed_nil (herr : c0.err = .clear) (hacc : c0.acc = 0#64) (hcur : c0.cursor = 0#7) : Packed c0 [] 0 c0 := by
  refine ⟨herr, by simp, rfl, by simp [hcur], ⟨by simp [hcur], by simp [hacc]⟩, ?_⟩
  simp [hcur, lowBits]

theorem words_succ {v w : Word} (h : v = w + BitVec.ofNat 64 d) : v + 1#64 = w + BitVec.ofNat 64 (d + 1) := by
  rw [h, BitVec.ofNat_add, BitVec.add_assoc]

/-- A bit that finds room in ACC. -/
theorem Packed.place (h : Packed c0 bits d c) (hlt : c.cursor.toNat < 64) (b : Bool) :
    Packed c0 (bits ++ [b]) d (writeBit b c) := by
  have hne : c.cursor ≠ 64#7 := fun he => by simp [he] at hlt
  have hw : writeBit b c = placeBit b c := by
    rcases writeBit_cases h.err b with ⟨-, hw⟩ | ⟨he, -⟩ | ⟨he, -⟩
    · exact hw
    · exact absurd he hne
    · exact absurd he hne
  have hk : (placeBit b c).cursor.toNat = c.cursor.toNat + 1 := cursor_add_one h.ok.1
  have hlen := h.length
  rw [hw]
  refine ⟨h.err, h.words, h.answers, ?_, placeBit_writerOk h.ok hlt b, ?_⟩
  · rw [List.length_append, hk, hlen]; rfl
  · rw [lowBits_placeBit h.ok hlt, h.pending, List.drop_append_of_le_length (by omega)]

/-- ACC is written out and cleared. -/
def drained (c : Channel) : Channel := { portWrite c.acc c with acc := 0#64, cursor := 0#7 }

@[simp] theorem drained_words (c : Channel) : (drained c).words = c.words + 1#64 := portWrite_words c c.acc
@[simp] theorem drained_port (c : Channel) : (drained c).port = c.port.afterWrite c.acc := portWrite_port c c.acc
@[simp] theorem drained_cursor (c : Channel) : (drained c).cursor = 0#7 := rfl
@[simp] theorem drained_acc (c : Channel) : (drained c).acc = 0#64 := rfl

theorem drained_err (he : c.err = .clear) (ha : c.port.nextWrite = .ok) : (drained c).err = .clear := by
  have := portWrite_err he c.acc
  rw [ha] at this
  exact this

/-- A full word that the host accepts leaves an empty ACC. -/
theorem Packed.drain (h : Packed c0 bits d c) (hfull : c.cursor = 64#7) (ha : c.port.writeAnswers = .ok :: more) :
    Packed c0 bits (d + 1) (drained c) := by
  have hlen := h.length
  have hcur : c.cursor.toNat = 64 := by rw [hfull]; rfl
  have hanswers : (drained c).port.writeAnswers = more := by
    rw [drained_port, Port.afterWrite_writeAnswers ha]
  refine ⟨drained_err h.err (Port.nextWrite_cons ha), ?_, ?_, ?_, ⟨by simp, by simp⟩, ?_⟩
  · rw [drained_words, words_succ h.words]
  · rw [hanswers, h.answers, ha, List.replicate_succ', List.append_assoc]; rfl
  · rw [drained_cursor, hlen, hcur]; rfl
  · rw [List.drop_eq_nil_of_le (by omega)]; rfl

/-- A bit after a full word that the host accepts. -/
theorem Packed.next (h : Packed c0 bits d c) (hfull : c.cursor = 64#7) (ha : c.port.writeAnswers = .ok :: more)
    (b : Bool) : Packed c0 (bits ++ [b]) (d + 1) (writeBit b c) := by
  have hd := h.drain hfull ha
  have hw : writeBit b c = writeBit b (drained c) := by
    rcases writeBit_cases h.err b with ⟨he, -⟩ | ⟨-, -, hw⟩ | ⟨-, hf, -⟩
    · exact absurd hfull he
    · rcases writeBit_cases hd.err b with ⟨-, hw'⟩ | ⟨he, -⟩ | ⟨he, -⟩
      · rw [hw, hw']; rfl
      · simp at he
      · simp at he
    · rw [Port.nextWrite_cons ha] at hf; cases hf
  rw [hw]
  exact hd.place (by simp) b

/-- The answers left after `d` of `k` accepted words. -/
theorem Packed.answers_left (h : Packed c0 bits d c) (ha : c0.port.writeAnswers = List.replicate k .ok ++ more)
    (hd : d ≤ k) : c.port.writeAnswers = List.replicate (k - d) .ok ++ more := by
  have hsplit : List.replicate k WriteAnswer.ok = List.replicate d .ok ++ List.replicate (k - d) .ok := by
    rw [← List.replicate_add, Nat.add_sub_cancel' hd]
  rw [h.answers, hsplit, List.append_assoc] at ha
  exact List.append_cancel_left ha

/-- A stream of at most `k + 1` words is packed with at most `k` of them written out. -/
theorem writeStream_packed (hstart : Packed c0 [] 0 c0) (ha : c0.port.writeAnswers = List.replicate k .ok ++ more)
    (hlen : bits.length ≤ 64 * (k + 1)) : ∃ d, d ≤ k ∧ Packed c0 bits d (writeStream bits c0) := by
  induction bits using List.reverseRecOn with
  | nil => exact ⟨0, Nat.zero_le k, hstart⟩
  | append_singleton bits b ih =>
    rw [List.length_append, List.length_singleton] at hlen
    obtain ⟨d, hd, hp⟩ := ih (by omega)
    have hl := hp.length
    rw [writeStream_concat]
    by_cases hfull : (writeStream bits c0).cursor = 64#7
    · have hcur : (writeStream bits c0).cursor.toNat = 64 := by rw [hfull]; rfl
      have hleft := hp.answers_left ha hd
      obtain ⟨m, hm⟩ : ∃ m, k - d = m + 1 := ⟨k - d - 1, by omega⟩
      rw [hm, List.replicate_succ, List.cons_append] at hleft
      exact ⟨d + 1, by omega, hp.next hfull hleft b⟩
    · exact ⟨d, hd, hp.place (cursor_ne_full hp.ok.1 hfull) b⟩

/-- The word in ACC is refused: it holds the bits of the stream from `64 * k` on, up to 64 of them. -/
theorem Packed.refused {pre : List Bool} (h : Packed c0 pre k c) (hpre : pre = bits.take (64 * (k + 1)))
    (ha : c.port.writeAnswers = .fail :: more) : RefusedWord c0 bits k (portWrite c.acc c) := by
  have herr := portWrite_err h.err c.acc
  rw [Port.nextWrite_cons ha] at herr
  have hlen := h.length
  have hpend := h.pending
  have hcur := h.ok.1
  rw [hpre, List.length_take] at hlen
  rw [hpre, List.drop_take] at hpend
  refine ⟨herr, ?_, ?_, ?_, ?_⟩
  · rw [portWrite_words, words_succ h.words]
  · rw [portWrite_cursor]; omega
  · rw [portWrite_cursor, portWrite_acc, hpend]
    congr 1
    omega
  · rw [portWrite_cursor, portWrite_acc]; exact h.ok.2

/-- A stream longer than `k + 1` words whose word `k` is refused stops there. -/
theorem writeStream_refused (hstart : Packed c0 [] 0 c0)
    (ha : c0.port.writeAnswers = List.replicate k .ok ++ .fail :: more) (hlen : 64 * (k + 1) < bits.length) :
    RefusedWord c0 bits k (writeStream bits c0) := by
  obtain ⟨d, hd, hp⟩ := writeStream_packed (bits := bits.take (64 * (k + 1))) hstart ha
    (by rw [List.length_take]; omega)
  have hl := hp.length
  have hcur := hp.ok.1
  rw [List.length_take] at hl
  obtain rfl : d = k := by omega
  have hleft := hp.answers_left ha (le_refl d)
  rw [Nat.sub_self, List.replicate_zero, List.nil_append] at hleft
  generalize hc : writeStream (bits.take (64 * (d + 1))) c0 = c at hp hl hcur hleft
  have hfull : c.cursor = 64#7 := BitVec.eq_of_toNat_eq (by simp only [BitVec.toNat_ofNat]; omega)
  have href := hp.refused rfl hleft
  obtain ⟨b, rest, hrest⟩ : ∃ b rest, bits.drop (64 * (d + 1)) = b :: rest :=
    List.exists_cons_of_length_pos (by rw [List.length_drop]; omega)
  have hstop : writeBit b c = portWrite c.acc c := by
    rcases writeBit_cases hp.err b with ⟨he, -⟩ | ⟨-, hok, -⟩ | ⟨-, -, hw⟩
    · exact absurd hfull he
    · rw [Port.nextWrite_cons hleft] at hok; cases hok
    · exact hw
  have hall : writeStream bits c0 = portWrite c.acc c := by
    rw [← List.take_append_drop (64 * (d + 1)) bits, writeStream_append, hc, hrest, writeStream_cons, hstop]
    exact writeStream_of_err (by rw [href.err]; decide) rest
  rw [hall]
  exact href

theorem cursor_eq_zero (c : Channel) : c.cursor = 0#7 ↔ c.cursor.toNat = 0 := by
  rw [← BitVec.toNat_inj]
  rfl

/-- The flush after a stream all of whose words are accepted (41_bitchannel.md R143). -/
theorem Packed.flush_accepted (h : Packed c0 bits d c) (ha : c.port.writeAnswers = List.replicate (k - d) .ok ++ more)
    (hd : d ≤ k) (hlen : bits.length ≤ 64 * k) :
    (flush c).err = .clear ∧ (flush c).words = c0.words + BitVec.ofNat 64 ((bits.length + 63) / 64) := by
  have hl := h.length
  have hcur := h.ok.1
  have hzero := cursor_eq_zero c
  rcases flush_cases h.err with ⟨h0, hf⟩ | ⟨h0, hok, hf⟩ | ⟨h0, hfail, -⟩
  · rw [hzero] at h0
    have hcount : (bits.length + 63) / 64 = d := by omega
    rw [hf, hcount]
    exact ⟨h.err, h.words⟩
  · rw [ne_eq, hzero] at h0
    have hcount : (bits.length + 63) / 64 = d + 1 := by omega
    rw [hf, hcount]
    exact ⟨drained_err h.err hok, (drained_words c).trans (words_succ h.words)⟩
  · rw [ne_eq, hzero] at h0
    obtain ⟨m, hm⟩ : ∃ m, k - d = m + 1 := ⟨k - d - 1, by omega⟩
    rw [hm, List.replicate_succ, List.cons_append] at ha
    rw [Port.nextWrite_cons ha] at hfail
    cases hfail

/-- The flush whose word, the stream's last, is refused (41_bitchannel.md R143). -/
theorem Packed.flush_refused (h : Packed c0 bits d c) (hd : d ≤ k)
    (ha : c.port.writeAnswers = List.replicate (k - d) .ok ++ .fail :: more) (hlow : 64 * k < bits.length)
    (hhigh : bits.length ≤ 64 * (k + 1)) : RefusedWord c0 bits k (flush c) := by
  have hl := h.length
  have hcur := h.ok.1
  obtain rfl : d = k := by omega
  rw [Nat.sub_self, List.replicate_zero, List.nil_append] at ha
  have hzero := cursor_eq_zero c
  rcases flush_cases h.err with ⟨h0, -⟩ | ⟨-, hok, -⟩ | ⟨-, -, hf⟩
  · rw [hzero] at h0; omega
  · rw [Port.nextWrite_cons ha] at hok; cases hok
  · rw [hf]; exact h.refused (List.take_of_length_le hhigh).symm ha

end Packing

/-! ## The token loop -/

/-- A run is no longer than the bytes it may compare. -/
theorem runLength_le (m : Memory) (src j i left k : Nat) : runLength m src j i left k ≤ k + left := by
  induction left generalizing k with
  | zero => exact le_refl k
  | succ left ih =>
    unfold runLength
    split
    · exact Nat.le_trans (ih (k + 1)) (by omega)
    · omega

/-- The kept match ends within the buffer (42_codec.md R173). -/
theorem findMatch_length_le (p : Params) (m : Memory) (src n i window : Nat) :
    (findMatch p m src n i window).2 ≤ n - i := by
  unfold findMatch
  generalize List.range' _ _ = candidates
  have keeps : ∀ acc : Nat × Nat, acc.2 ≤ n - i → (candidates.foldl (tryCandidate p m src n i) acc).2 ≤ n - i := by
    induction candidates with
    | nil => exact fun _ h => h
    | cons j candidates ih =>
      intro acc h
      refine ih _ ?_
      unfold tryCandidate
      dsimp only
      split
      · simpa using runLength_le m src j i (n - i) 0
      · exact h
  exact keeps (0, 0) (Nat.zero_le _)

/-- The bits of a list of tokens. -/
def tokenBits (base : Nat) (tokens : List Token) : List Bool := tokens.flatMap (Token.code base)

@[simp] theorem tokenBits_nil (base : Nat) : tokenBits base [] = [] := rfl

theorem tokenBits_cons (base : Nat) (t : Token) (ts : List Token) :
    tokenBits base (t :: ts) = t.code base ++ tokenBits base ts := List.flatMap_cons

theorem cursorAfter_cons (i : Nat) (t : Token) (ts : List Token) :
    cursorAfter i (t :: ts) = cursorAfter (cursorAfter i [t]) ts := by cases t <;> rfl

section Loop
variable {p : Params} {m : Memory} {src n window base fuel i : Nat} {c : Channel} {t : Token} {ts : List Token}

/-- With an error set the token loop ends (42_codec.md R182). -/
theorem compressLoop_of_err (h : c.err ≠ .clear) : compressLoop p m src n window base fuel i c = (i, c) := by
  cases fuel with
  | zero => rfl
  | succ fuel => simp [compressLoop, h]

/-- At the end of the buffer the token loop ends. -/
theorem compressLoop_at_end : compressLoop p m src n window base fuel n c = (n, c) := by
  cases fuel with
  | zero => rfl
  | succ fuel => simp [compressLoop]

/-- The token chosen first moves the cursor forward within the buffer, and the rest is chosen from there on. -/
theorem Chosen.advance (h : Chosen p m src n window i (t :: ts)) (hn : n < 2 ^ 64) :
    i < n ∧ i < cursorAfter i [t] ∧ Chosen p m src n window (cursorAfter i [t]) ts := by
  obtain ⟨hi, hchoice⟩ := h
  have hle := findMatch_length_le p m src n i window
  split at hchoice
  next hlong =>
    obtain ⟨rfl, hts⟩ := hchoice
    have hlen : (BitVec.ofNat 64 (findMatch p m src n i window).2).toNat = (findMatch p m src n i window).2 := by
      rw [BitVec.toNat_ofNat]; omega
    simp only [cursorAfter, hlen]
    exact ⟨hi, by omega, hts⟩
  next =>
    obtain ⟨rfl, hts⟩ := hchoice
    exact ⟨hi, Nat.lt_succ_self i, hts⟩

/-- A round of the token loop writes the chosen token (42_codec.md R182). -/
theorem compressLoop_round (h : Chosen p m src n window i (t :: ts)) (hn : n < 2 ^ 64) (he : c.err = .clear) :
    compressLoop p m src n window base (fuel + 1) i c
      = compressLoop p m src n window base fuel (cursorAfter i [t]) (writeStream (t.code base) c) := by
  obtain ⟨hi, hchoice⟩ := h
  have hle := findMatch_length_le p m src n i window
  rw [compressLoop, if_pos ⟨hi, he⟩]
  dsimp only
  split at hchoice
  next hlong =>
    obtain ⟨rfl, -⟩ := hchoice
    have hlen : (BitVec.ofNat 64 (findMatch p m src n i window).2).toNat = (findMatch p m src n i window).2 := by
      rw [BitVec.toNat_ofNat]; omega
    rw [if_pos hlong, emitMatch_eq_stream]
    simp only [cursorAfter, hlen, zext64]
  next hlong =>
    obtain ⟨rfl, -⟩ := hchoice
    rw [if_neg hlong, emitLiteral_eq_stream base]
    rfl

/-- The token loop writes the codes of the chosen tokens: after an error the rest of them is dropped. -/
theorem compressLoop_stream (h : Chosen p m src n window i ts) (hn : n < 2 ^ 64) (hfuel : n - i ≤ fuel) :
    (compressLoop p m src n window base fuel i c).2 = writeStream (tokenBits base ts) c := by
  induction ts generalizing i c fuel with
  | nil => obtain rfl : i = n := h; rw [compressLoop_at_end]; rfl
  | cons t ts ih =>
    by_cases he : c.err = .clear
    · obtain ⟨hi, hlt, hts⟩ := h.advance hn
      obtain ⟨f, rfl⟩ : ∃ f, fuel = f + 1 := ⟨fuel - 1, by omega⟩
      rw [compressLoop_round h hn he, ih hts (by omega), tokenBits_cons, writeStream_append]
    · rw [compressLoop_of_err he, writeStream_of_err he]

/-- A refusal within a token ends the loop after that token: its bytes are consumed. -/
theorem compressLoop_cut {before later : List Token} {cut : Token}
    (h : Chosen p m src n window i (before ++ cut :: later)) (hn : n < 2 ^ 64) (hfuel : n - i ≤ fuel)
    (hbefore : (writeStream (tokenBits base before) c).err = .clear)
    (hcut : (writeStream (tokenBits base (before ++ [cut])) c).err ≠ .clear) :
    (compressLoop p m src n window base fuel i c).1 = cursorAfter i (before ++ [cut]) := by
  induction before generalizing i c fuel with
  | nil =>
    obtain ⟨hi, hlt, -⟩ := Chosen.advance h hn
    obtain ⟨f, rfl⟩ : ∃ f, fuel = f + 1 := ⟨fuel - 1, by omega⟩
    have he : c.err = .clear := hbefore
    rw [List.nil_append, tokenBits_cons, tokenBits_nil, List.append_nil] at hcut
    rw [List.nil_append, compressLoop_round h hn he, compressLoop_of_err hcut]
  | cons t before ih =>
    have he : c.err = .clear := by
      by_contra he
      rw [writeStream_of_err he] at hbefore
      exact he hbefore
    obtain ⟨hi, hlt, hts⟩ := Chosen.advance h hn
    obtain ⟨f, rfl⟩ : ∃ f, fuel = f + 1 := ⟨fuel - 1, by omega⟩
    rw [tokenBits_cons, writeStream_append] at hbefore
    rw [List.cons_append, tokenBits_cons, writeStream_append] at hcut
    rw [compressLoop_round h hn he, ih hts (by omega) hbefore hcut]
    exact (cursorAfter_cons i t (before ++ [cut])).symm

/-- The token loop consumes at most the buffer, and all of it when no error is set at its end. -/
theorem compressLoop_consumed (hi : i ≤ n) (hfuel : n - i ≤ fuel) :
    (compressLoop p m src n window base fuel i c).1 ≤ n
      ∧ ((compressLoop p m src n window base fuel i c).2.err = .clear →
          (compressLoop p m src n window base fuel i c).1 = n) := by
  induction fuel generalizing i c with
  | zero => exact ⟨hi, fun _ => by simp only [compressLoop]; omega⟩
  | succ fuel ih =>
    have hle := findMatch_length_le p m src n i window
    unfold compressLoop
    dsimp only
    split
    next hc =>
      split
      · exact ih (by omega) (by omega)
      · exact ih (by omega) (by omega)
    next hc => exact ⟨hi, fun he => le_antisymm hi (not_lt.1 fun hlt => hc ⟨hlt, he⟩)⟩

end Loop

/-! ## CX.COMPRESS -/

/-- The error does not go away while bits are written and flushed. -/
theorem flush_err_clear {c : Channel} (h : (flush c).err = .clear) : c.err = .clear := by
  by_contra he
  rw [flush_of_err he] at h
  exact he h

/-- A flush that leaves no error leaves an empty writer (41_bitchannel.md R143). -/
theorem flush_clean {c : Channel} (hc : c.WriterOk) (h : (flush c).err = .clear) :
    (flush c).acc = 0#64 ∧ (flush c).cursor = 0#7 := by
  have he := flush_err_clear h
  rcases flush_cases he with ⟨h0, hf⟩ | ⟨-, -, hf⟩ | ⟨-, ha, hf⟩
  · have hacc := hc.2
    rw [h0] at hacc
    rw [hf]
    exact ⟨BitVec.eq_of_toNat_eq (Nat.lt_one_iff.1 hacc), h0⟩
  · rw [hf]; exact ⟨rfl, rfl⟩
  · rw [hf, portWrite_err he, ha] at h; cases h

/-- What the two header words leave (42_codec.md R171). -/
theorem writeHeader_refused_first {c : Channel} (he : c.err = .clear) (ha : c.port.nextWrite = .fail) (total wb : Word) :
    (writeHeader total wb c).err = .ioFailure ∧ (writeHeader total wb c).words = c.words + 1#64 := by
  have herr := portWrite_err he total
  rw [ha] at herr
  simp [writeHeader, herr]

theorem writeHeader_refused_second {c : Channel} {more : List WriteAnswer} (he : c.err = .clear)
    (ha : c.port.writeAnswers = .ok :: .fail :: more) (total wb : Word) :
    (writeHeader total wb c).err = .ioFailure ∧ (writeHeader total wb c).words = c.words + 2#64 := by
  have herr := portWrite_err he total
  rw [Port.nextWrite_cons ha] at herr
  have hnext : (portWrite total c).port.writeAnswers = .fail :: more := by
    rw [portWrite_port, Port.afterWrite_writeAnswers ha]
  have herr' := portWrite_err herr wb
  rw [Port.nextWrite_cons hnext] at herr'
  simp [writeHeader, herr, herr', BitVec.add_assoc]

theorem writeHeader_accepted {c : Channel} {more : List WriteAnswer} (he : c.err = .clear)
    (ha : c.port.writeAnswers = .ok :: .ok :: more) (total wb : Word) :
    (writeHeader total wb c).err = .clear ∧ (writeHeader total wb c).words = c.words + 2#64
      ∧ (writeHeader total wb c).port.writeAnswers = more := by
  have herr := portWrite_err he total
  rw [Port.nextWrite_cons ha] at herr
  have hnext : (portWrite total c).port.writeAnswers = .ok :: more := by
    rw [portWrite_port, Port.afterWrite_writeAnswers ha]
  have herr' := portWrite_err herr wb
  rw [Port.nextWrite_cons hnext] at herr'
  have hport : (portWrite wb (portWrite total c)).port.writeAnswers = more := by
    rw [portWrite_port, Port.afterWrite_writeAnswers hnext]
  simpa [writeHeader, herr, herr', BitVec.add_assoc] using hport

/-- The session after the header of CX.COMPRESS (42_codec.md R182). -/
def compressStart (s : State) : Channel := writeHeader s.arg1 s.arg2 s.chan.fresh

/-- The token loop of CX.COMPRESS in a state: the bytes consumed and the session before the flush (42_codec.md R182). -/
def compressTokens (s : State) : Nat × Channel :=
  compressLoop s.param s.dmem s.arg0.toNat s.arg1.toNat (2 ^ s.arg2.toNat) ((s.arg2.toNat - 4) / 2) s.arg1.toNat 0
    (compressStart s)

/-- The next state of CX.COMPRESS when its checks pass: the token loop, a flush and the end of the session. -/
def compressed (s : State) : State :=
  { s with chan := (flush (compressTokens s).2).close, res0 := (flush (compressTokens s).2).words
           res1 := zext64 (compressTokens s).1, busy := false }

section Compress
variable {s : State}

theorem exec_cxCompress (hdir : s.chan.dir = .write) (herr : s.chan.err = .clear)
    (hbuf : s.arg0.toNat + s.arg1.toNat ≤ 2 ^ s.param.aw) (hlow : 10 ≤ s.arg2.toNat) (hhigh : s.arg2.toNat ≤ 20) :
    exec .cxCompress s = .next (compressed s) := by
  have hbuffer : bufferOk s.param s.arg0 s.arg1 = true := decide_eq_true hbuf
  have hwb : validWB s.arg2 = true := by simp [validWB, hlow, hhigh]
  have hcompress : compress s.param s.dmem s.arg0 s.arg1 s.arg2 s.chan
      = ((compressTokens s).1, flush (compressTokens s).2) := by
    rw [compress, if_neg (not_not.2 herr), if_neg (by simp [hwb])]
    change (if (compressTokens s).2.err = .clear then ((compressTokens s).1, flush (compressTokens s).2)
      else compressTokens s) = _
    split
    next => rfl
    next hset => rw [flush_of_err hset]
  change execCxCompress s = _
  rw [execCxCompress, if_neg (not_not.2 hdir), if_neg (by simp [hbuffer]), hcompress]
  rfl

theorem compressTokens_consumed (s : State) :
    (compressTokens s).1 ≤ s.arg1.toNat ∧ ((compressTokens s).2.err = .clear → (compressTokens s).1 = s.arg1.toNat) :=
  compressLoop_consumed (Nat.zero_le _) (Nat.sub_le _ _)

/-- RES1 holds the bytes consumed without a wrap. -/
theorem compressed_res1 (s : State) : (compressed s).res1.toNat = (compressTokens s).1 := by
  have := (compressTokens_consumed s).1
  have := s.arg1.isLt
  change (zext64 (compressTokens s).1).toNat = _
  rw [zext64, BitVec.toNat_ofNat]
  omega

theorem compressed_res1_all (h : (compressTokens s).2.err = .clear) : (compressed s).res1 = s.arg1 :=
  BitVec.eq_of_toNat_eq ((compressed_res1 s).trans ((compressTokens_consumed s).2 h))

theorem compressTokens_writerOk (s : State) : (compressTokens s).2.WriterOk :=
  have hstart : (compressStart s).WriterOk := by simp [compressStart, Channel.WriterOk]
  compressLoop_induct (P := Channel.WriterOk) (fun b _ h => writeBit_writerOk h b) _ _ _ _ _ _ _ hstart

/-- A refused header word leaves nothing consumed (42_codec.md R182). -/
theorem compressed_of_header_err (h : (compressStart s).err = .ioFailure) :
    (compressed s).res1 = 0#64 ∧ (compressed s).chan.words = (compressStart s).words
      ∧ (compressed s).chan.err = .ioFailure := by
  have hset : (compressStart s).err ≠ .clear := by rw [h]; decide
  have htokens : compressTokens s = (0, compressStart s) := compressLoop_of_err hset
  have hflush : flush (compressStart s) = compressStart s := flush_of_err hset
  simp [compressed, htokens, hflush, h, zext64]

section Tokens
variable {tokens : List Token} {k : Nat} {more : List WriteAnswer}

/-- After a header that the host accepts nothing of the stream is written yet. -/
theorem compressStart_packed (herr : s.chan.err = .clear) (ha : s.chan.port.writeAnswers = .ok :: .ok :: more) :
    Packed (compressStart s) [] 0 (compressStart s) ∧ (compressStart s).words = s.chan.words + 2#64
      ∧ (compressStart s).port.writeAnswers = more := by
  obtain ⟨he, hw, hp⟩ := writeHeader_accepted (c := s.chan.fresh) herr ha s.arg1 s.arg2
  exact ⟨packed_nil he (by simp [compressStart]) (by simp [compressStart]), hw, hp⟩

/-- The payload that CX.COMPRESS writes for the tokens it chooses (42_codec.md R182). -/
def payloadBits (s : State) (tokens : List Token) : List Bool := tokenBits ((s.arg2.toNat - 4) / 2) tokens

theorem compressTokens_stream
    (hc : Chosen s.param s.dmem s.arg0.toNat s.arg1.toNat (2 ^ s.arg2.toNat) 0 tokens) :
    (compressTokens s).2 = writeStream (payloadBits s tokens) (compressStart s) :=
  compressLoop_stream hc s.arg1.isLt (Nat.sub_le _ _)

/-- Every payload word accepted. -/
theorem compressed_accepted (herr : s.chan.err = .clear)
    (hc : Chosen s.param s.dmem s.arg0.toNat s.arg1.toNat (2 ^ s.arg2.toNat) 0 tokens)
    (hlen : (payloadBits s tokens).length ≤ 64 * k)
    (ha : s.chan.port.writeAnswers = .ok :: .ok :: List.replicate k .ok ++ more) :
    (compressed s).chan.err = .clear
      ∧ (compressed s).chan.words = s.chan.words + BitVec.ofNat 64 (2 + ((payloadBits s tokens).length + 63) / 64) := by
  obtain ⟨hstart, hwords, hanswers⟩ := compressStart_packed herr ha
  obtain ⟨d, hd, hp⟩ := writeStream_packed hstart hanswers (bits := payloadBits s tokens) (by omega)
  obtain ⟨he, hw⟩ := hp.flush_accepted (hp.answers_left hanswers hd) hd hlen
  rw [← compressTokens_stream hc] at he hw
  refine ⟨he, hw.trans ?_⟩
  rw [hwords, BitVec.ofNat_add, BitVec.add_assoc]

/-- Payload word `k` refused: what stands in the session at the end. -/
theorem compressed_refused (herr : s.chan.err = .clear)
    (hc : Chosen s.param s.dmem s.arg0.toNat s.arg1.toNat (2 ^ s.arg2.toNat) 0 tokens)
    (hlen : 64 * k < (payloadBits s tokens).length)
    (ha : s.chan.port.writeAnswers = .ok :: .ok :: List.replicate k .ok ++ .fail :: more) :
    RefusedWord (compressStart s) (payloadBits s tokens) k (flush (compressTokens s).2)
      ∧ ((payloadBits s tokens).length ≤ 64 * (k + 1) → (compressTokens s).2.err = .clear) := by
  obtain ⟨hstart, -, hanswers⟩ := compressStart_packed herr ha
  rw [compressTokens_stream hc]
  by_cases hlast : (payloadBits s tokens).length ≤ 64 * (k + 1)
  · obtain ⟨d, hd, hp⟩ := writeStream_packed hstart hanswers hlast
    exact ⟨hp.flush_refused hd (hp.answers_left hanswers hd) hlen hlast, fun _ => hp.err⟩
  · have href := writeStream_refused hstart hanswers (Nat.lt_of_not_le hlast)
    rw [flush_of_err (by rw [href.err]; decide)]
    exact ⟨href, fun h => absurd h hlast⟩

/-- Payload word `k` refused within token `cut`: the bytes up to its end are consumed. -/
theorem compressTokens_cut {before later : List Token} {cut : Token} (herr : s.chan.err = .clear)
    (hc : Chosen s.param s.dmem s.arg0.toNat s.arg1.toNat (2 ^ s.arg2.toNat) 0 (before ++ cut :: later))
    (hbefore : (payloadBits s before).length ≤ 64 * (k + 1))
    (hcut : 64 * (k + 1) < (payloadBits s (before ++ [cut])).length)
    (ha : s.chan.port.writeAnswers = .ok :: .ok :: List.replicate k .ok ++ .fail :: more) :
    (compressTokens s).1 = cursorAfter 0 (before ++ [cut]) := by
  obtain ⟨hstart, -, hanswers⟩ := compressStart_packed herr ha
  obtain ⟨d, -, hp⟩ := writeStream_packed hstart hanswers hbefore
  have href := writeStream_refused hstart hanswers hcut
  have hstop : (writeStream (payloadBits s (before ++ [cut])) (compressStart s)).err ≠ .clear := by
    rw [href.err]; decide
  exact compressLoop_cut hc s.arg1.isLt (Nat.sub_le _ _) hp.err hstop

end Tokens
end Compress

/-- Settles O48: the token loop writes one stream, and the answers of the host say where the stream stops. -/
theorem compressCompletes : Obligations.CompressCompletes := by
  intro s hdir herr hbuf hlow hhigh
  have hfresh : s.chan.fresh.err = .clear := herr
  refine ⟨compressed s, exec_cxCompress hdir herr hbuf hlow hhigh, rfl, rfl, ?_, ?_, ?_, ?_, ?_⟩
  · rw [compressed_res1]; exact (compressTokens_consumed s).1
  · intro he
    exact ⟨compressed_res1_all (flush_err_clear he), flush_clean (compressTokens_writerOk s) he⟩
  · intro ha
    obtain ⟨he, hw⟩ := writeHeader_refused_first hfresh ha s.arg1 s.arg2
    obtain ⟨hres, hwords, hio⟩ := compressed_of_header_err he
    exact ⟨hres, hwords.trans hw, hio⟩
  · intro more ha
    obtain ⟨he, hw⟩ := writeHeader_refused_second hfresh ha s.arg1 s.arg2
    obtain ⟨hres, hwords, hio⟩ := compressed_of_header_err he
    exact ⟨hres, hwords.trans hw, hio⟩
  · intro tokens bits k more hc hbits
    obtain rfl : bits = payloadBits s tokens := hbits
    refine ⟨fun hlen ha => compressed_accepted herr hc hlen ha, fun hlen ha => ?_⟩
    obtain ⟨-, hwords, -⟩ := compressStart_packed herr ha
    obtain ⟨href, hlast⟩ := compressed_refused herr hc hlen ha
    refine ⟨href.err, ?_, href.cursor, href.pending, href.acc, fun h => compressed_res1_all (hlast h), ?_⟩
    · refine href.words.trans ?_
      rw [hwords, BitVec.add_assoc, ← BitVec.ofNat_add, Nat.add_comm 2]
    · rintro before cut later rfl hbefore hcut
      exact congrArg zext64 (compressTokens_cut herr hc hbefore hcut ha)

end Sys2Proof.Machine
end

section
/-! DMEM: what a host access does to it, and its canonical form within `2 ^ AW`, kept by every write below `2 ^ AW`, by the loops
made of such writes and so by every command and every action of the host. -/
namespace Sys2Proof.Machine

/-! ## Host accesses -/

section HostAccess
variable {s : State} {addr : Nat}

/-- A host DMEM access goes through below `2 ^ AW` while BUSY is 0 only (20_memory.md R60, log entries 9 and 10). -/
theorem dmemStop_eq_none_iff : dmemStop addr s = none ↔ addr < s.param.dmemSize ∧ s.busy = false := by
  unfold dmemStop
  split
  next hout => simp [hout]
  next hin =>
    have hlt : addr < s.param.dmemSize := Nat.lt_of_not_le hin
    cases hb : s.busy <;> simp [hlt]

theorem dmemStop_outside (h : s.param.dmemSize ≤ addr) : dmemStop addr s = some (.fault .dmemOutside) := if_pos h

theorem act_memWrite (s : State) (hin : addr < s.param.dmemSize) (hb : s.busy = false) (v : Byte) :
    act (.memWrite addr v) s = .next (s.setDmem (s.dmem.write addr v)) := by
  simp only [act, dmemStop_eq_none_iff.2 ⟨hin, hb⟩]

theorem act_memRead (s : State) (hin : addr < s.param.dmemSize) (hb : s.busy = false) :
    act (.memRead addr) s = .next { s with hostReads := .mem addr (s.byteAt addr) :: s.hostReads } := by
  simp only [act, dmemStop_eq_none_iff.2 ⟨hin, hb⟩]

theorem act_memWrite_outside (s : State) (hout : s.param.dmemSize ≤ addr) (v : Byte) :
    act (.memWrite addr v) s = .fault .dmemOutside := by
  simp only [act, dmemStop_outside hout]

theorem act_memRead_outside (s : State) (hout : s.param.dmemSize ≤ addr) :
    act (.memRead addr) s = .fault .dmemOutside := by
  simp only [act, dmemStop_outside hout]

/-- A host write that answers wrote one byte below `2 ^ AW` (20_memory.md R60). -/
theorem act_memWrite_next {t : State} {v : Byte} (h : act (.memWrite addr v) s = .next t) :
    addr < s.param.dmemSize ∧ t = s.setDmem (s.dmem.write addr v) := by
  unfold act at h
  dsimp only at h
  split at h
  next hstop => exact absurd h (dmemStop_next hstop)
  next hgo =>
    injection h with h
    exact ⟨(dmemStop_eq_none_iff.1 hgo).1, h.symm⟩

/-- A host read that answers leaves DMEM and the parameters alone (20_memory.md R61). -/
theorem act_memRead_next {t : State} (h : act (.memRead addr) s = .next t) :
    t = { s with hostReads := .mem addr (s.byteAt addr) :: s.hostReads } := by
  unfold act at h
  dsimp only at h
  split at h
  next hstop => exact absurd h (dmemStop_next hstop)
  next => injection h with h; exact h.symm

/-- A register write reaches no byte of DMEM (20_memory.md R69). -/
theorem State.writeReg_dmem (s : State) (offset : Nat) (v : Word) : (s.writeReg offset v).dmem = s.dmem := by
  unfold State.writeReg
  split <;> rfl

theorem State.writeReg_param (s : State) (offset : Nat) (v : Word) : (s.writeReg offset v).param = s.param := by
  unfold State.writeReg
  split <;> rfl

/-- A step takes the next action of the host. -/
theorem step_pending {a : HostAction} {rest : List HostAction} (h : s.pending = a :: rest) :
    step s = act a { s with pending := rest } := by
  simp only [step, h]

end HostAccess

/-- Settles O15: the step is the access, and DMEM after it is given by `Memory.write`. -/
theorem hostDmemAccess : Obligations.HostDmemAccess := by
  intro s rest a hbusy
  refine ⟨fun v hp hin => ?_, fun hp hin => ?_, fun v hp hout => ?_, fun hp hout => ?_⟩
  · exact ⟨_, (step_pending hp).trans (act_memWrite { s with pending := rest } hin hbusy v),
      Memory.byte_write_same s.dmem a v, fun x hx => Memory.byte_write_other s.dmem v hx, rfl⟩
  · exact (step_pending hp).trans (act_memRead { s with pending := rest } hin hbusy)
  · exact (step_pending hp).trans (act_memWrite_outside { s with pending := rest } hout v)
  · exact (step_pending hp).trans (act_memRead_outside { s with pending := rest } hout)

/-! ## The writes of CX.DECOMPRESS -/

/-- What every write of a byte below the declared count keeps, the token loop of CX.DECOMPRESS keeps (42_codec.md R176, R183). -/
theorem decompressLoop_mem_induct {P : Memory → Prop} {dst nh : Nat}
    (write : ∀ m k v, P m → k < nh → P (m.write (dst + k) v)) (window base fuel : Nat) {d : Decoded} (h : P d.mem) :
    P (decompressLoop dst nh window base fuel d).mem := by
  induction fuel generalizing d with
  | zero => exact h
  | succ fuel ih =>
    unfold decompressLoop
    split
    next hround =>
      dsimp only
      split
      · exact h
      · exact ih (write _ _ _ h hround.1)
      next pos len _ =>
        split
        next hvalid =>
          obtain ⟨-, -, -, -, hlen⟩ := (validMatch_iff _ _ _ _ _).1 hvalid
          exact ih (copyMatch_induct h fun m k v hm _ hk => write m k v hm (by omega))
        next => exact h
    next => exact h

/-- What every write of a byte of the buffer keeps, CX.DECOMPRESS keeps: a declared count above its capacity writes nothing
(42_codec.md R183). -/
theorem decompress_mem_induct {P : Memory → Prop} {m : Memory} {dst cap : Word}
    (write : ∀ m k v, P m → k < cap.toNat → P (m.write (dst.toNat + k) v)) (wb : Word) (c : Channel) (h : P m) :
    P (decompress m dst cap wb c).2.mem := by
  unfold decompress
  dsimp only
  split
  · exact h
  · split
    · exact h
    · split
      · exact h
      · split
        · exact h
        next hfits =>
          simp only [not_or, Nat.not_lt] at hfits
          obtain ⟨-, -, hcount⟩ := hfits
          exact decompressLoop_mem_induct (fun m k v hm hk => write m k v hm (Nat.lt_of_lt_of_le hk hcount)) _ _ _ h

/-- DMEM after CX.DECOMPRESS: as before it, or what the decoder made of it, in a buffer that fits in DMEM (20_memory.md R62). -/
theorem execCxDecompress_dmem {s t : State} (h : execCxDecompress s = .next t) :
    t.dmem = s.dmem
      ∨ (s.arg0.toNat + s.arg1.toNat ≤ s.param.dmemSize
          ∧ t.dmem = (decompress s.dmem s.arg0 s.arg1 s.arg2 s.chan).2.mem) := by
  unfold execCxDecompress at h
  split at h
  · rw [raise_next h]; simp
  · split at h
    · rw [raise_next h]; simp
    next hbuf =>
      rw [complete_next h]
      exact .inr ⟨by simpa [bufferOk] using hbuf, by simp⟩

/-! ## The canonical form -/

/-- DMEM is in its canonical form and lists only addresses below `size`. -/
def Memory.Within (size : Nat) (m : Memory) : Prop := m.wf ∧ ∀ c ∈ m, c.1 < size

theorem State.memOk_iff (s : State) : s.MemOk ↔ s.dmem.Within s.param.dmemSize := Iff.rfl

/-- A write below the bound keeps the form. -/
theorem Memory.Within.write {size a : Nat} {m : Memory} (h : m.Within size) (ha : a < size) (v : Byte) :
    (m.write a v).Within size := by
  obtain ⟨hwf, hlow⟩ := h
  refine ⟨Memory.wf_write hwf a v, fun c hc => ?_⟩
  rcases Memory.mem_write hc with rfl | hc
  · exact ha
  · exact hlow c hc

section MemOk
variable {s t : State}

/-- The invariant reads DMEM and the parameters only. -/
theorem State.MemOk.congr (h : s.MemOk) (hdmem : t.dmem = s.dmem) (hparam : t.param = s.param) : t.MemOk := by
  rw [State.memOk_iff, hdmem, hparam]
  exact h

/-- CX.DECOMPRESS writes in its buffer only, which fits in DMEM (20_memory.md R62). -/
theorem State.MemOk.execCxDecompress (hs : s.MemOk) (h : execCxDecompress s = .next t) : t.MemOk := by
  have hparam : t.param = s.param := (execCxDecompress_ended h).param
  rcases execCxDecompress_dmem h with hsame | ⟨hbuf, hdecoded⟩
  · exact hs.congr hsame hparam
  · rw [State.memOk_iff, hparam, hdecoded]
    exact decompress_mem_induct (fun m k v hm hk => hm.write (by omega) v) _ _ hs

/-- Every command keeps DMEM canonical: only CX.DECOMPRESS writes it. -/
theorem State.MemOk.exec {i : Instr} (hs : s.MemOk) (h : exec i s = .next t) : t.MemOk := by
  by_cases hi : i = .cxDecompress
  · subst hi
    exact hs.execCxDecompress h
  · exact hs.congr ((exec_ended h).dmem hi) (exec_ended h).param

theorem State.MemOk.runCommand {v : Word} (hs : s.MemOk) (h : runCommand v s = .next t) : t.MemOk := by
  cases hd : decode v with
  | ok i =>
    rw [runCommand_of_ok s hd] at h
    exact hs.exec h
  | error e =>
    rw [runCommand_of_error s hd] at h
    injection h with h
    subst h
    exact hs.congr (by simp) (by simp)

/-- A host register write keeps DMEM canonical: only a command it starts can write DMEM. -/
theorem State.MemOk.hostWrite {offset : Nat} {v : Word} (hs : s.MemOk) (h : hostWrite offset v s = .next t) :
    t.MemOk := by
  unfold Machine.hostWrite at h
  split at h
  · injection h with h
    subst h
    exact hs.congr (by simp [State.busyWrite]) (by simp [State.busyWrite])
  · split at h
    · unfold issue at h
      split at h
      · injection h with h
        exact h ▸ hs
      · exact (hs.congr (t := s.begin (v.setWidth 32)) rfl rfl).runCommand h
    · injection h with h
      subst h
      exact hs.congr (s.writeReg_dmem offset v) (s.writeReg_param offset v)

/-- Every action of the host or the platform keeps DMEM canonical. -/
theorem State.MemOk.act {a : HostAction} (hs : s.MemOk) (h : act a s = .next t) : t.MemOk := by
  cases a with
  | regWrite width addr v =>
    unfold Machine.act at h
    dsimp only at h
    split at h
    · cases h
    · exact hs.hostWrite h
  | regRead width addr =>
    unfold Machine.act at h
    dsimp only at h
    split at h
    · cases h
    · injection h with h
      subst h
      exact hs.congr rfl rfl
  | memWrite addr v =>
    obtain ⟨hin, rfl⟩ := act_memWrite_next h
    exact Memory.Within.write hs hin v
  | memRead addr =>
    rw [act_memRead_next h]
    exact hs.congr rfl rfl
  | reset =>
    injection h with h
    subst h
    exact hs.congr rfl rfl

theorem State.MemOk.idle (hs : s.MemOk) (h : idle s = .next t) : t.MemOk := by
  unfold Machine.idle at h
  split at h
  · exact hs.runCommand h
  · injection h with h
    exact h ▸ hs

end MemOk

/-- Settles O57 (the list form of DMEM is the model's, log entry 3): an idle step and each action of the host keep the form. -/
theorem stepKeepsDmemCanonical : Obligations.StepKeepsDmemCanonical := by
  intro s t hs h
  cases hp : s.pending with
  | nil =>
    simp only [step, hp] at h
    exact hs.idle h
  | cons a rest =>
    rw [step_pending hp] at h
    exact State.MemOk.act (s := { s with pending := rest }) hs h

end Sys2Proof.Machine
end

section
/-! What a write session sends: the words the host accepted, and the bits of a stream that stand in them and in ACC. -/
namespace Sys2Proof.Machine

/-! ## Accepted words -/

section Accepted
variable {c d : Channel}

theorem acceptedWords_cons (e : PortEvent) (trace : List PortEvent) :
    acceptedWords (e :: trace) = acceptedWords trace ++ e.accepted.toList := by
  simp only [acceptedWords, List.reverse_cons, List.filterMap_append]
  cases h : e.accepted <;> simp [h]

/-- A write transaction adds its word if the host accepts it (20_memory.md R63). -/
theorem acceptedWords_portWrite (w : Word) (c : Channel) :
    acceptedWords (portWrite w c).port.trace
      = acceptedWords c.port.trace ++ (PortEvent.wrote w c.port.nextWrite).accepted.toList := by
  rw [portWrite_port, Port.afterWrite_trace, acceptedWords_cons]

theorem acceptedWords_portWrite_ok (ha : c.port.nextWrite = .ok) (w : Word) :
    acceptedWords (portWrite w c).port.trace = acceptedWords c.port.trace ++ [w] := by
  rw [acceptedWords_portWrite, ha]; rfl

theorem acceptedWords_prefix_portWrite (w : Word) (c : Channel) :
    acceptedWords c.port.trace <+: acceptedWords (portWrite w c).port.trace := by
  rw [acceptedWords_portWrite]
  exact List.prefix_append _ _

/-- ERR is clear after a write transaction exactly if it was clear before and the host accepted the word. -/
theorem portWrite_err_clear_iff (w : Word) :
    (portWrite w c).err = .clear ↔ c.err = .clear ∧ c.port.nextWrite = .ok := by
  by_cases he : c.err = .clear
  · rw [portWrite_err he]
    cases c.port.nextWrite <;> simp [he]
  · cases ha : c.port.nextWrite <;> simp [portWrite, ha, he, Channel.setErr]

/-- The primitives of a write session only add to the words the host accepted. -/
theorem Channel.Writes.acceptedWords_prefix (h : c.Writes d) :
    acceptedWords c.port.trace <+: acceptedWords d.port.trace := by
  induction h with
  | refl => exact List.prefix_refl _
  | @bit d b _ ih =>
    refine ih.trans ?_
    by_cases he : d.err = .clear
    · rcases writeBit_cases he b with ⟨-, hw⟩ | ⟨-, -, hw⟩ | ⟨-, -, hw⟩
      · rw [hw]; exact List.prefix_refl _
      · rw [hw]; exact acceptedWords_prefix_portWrite d.acc d
      · rw [hw]; exact acceptedWords_prefix_portWrite d.acc d
    · rw [writeBit_of_err he]
  | word w _ ih => exact ih.trans (acceptedWords_prefix_portWrite w _)
  | @flush d _ ih =>
    refine ih.trans ?_
    by_cases he : d.err = .clear
    · rcases flush_cases he with ⟨-, hw⟩ | ⟨-, -, hw⟩ | ⟨-, -, hw⟩
      · rw [hw]
      · rw [hw]; exact acceptedWords_prefix_portWrite d.acc d
      · rw [hw]; exact acceptedWords_prefix_portWrite d.acc d
    · rw [flush_of_err he]
  | setErr e _ ih => simpa using ih
  | fresh _ ih => exact ih

/-- A header that leaves ERR clear was accepted, both words (42_codec.md R171). -/
theorem writeHeader_of_err_clear {total wb : Word} (h : (writeHeader total wb c).err = .clear) :
    acceptedWords (writeHeader total wb c).port.trace = acceptedWords c.port.trace ++ [total, wb] := by
  unfold writeHeader at h ⊢
  dsimp only at h ⊢
  split at h
  next hset => exact absurd h hset
  next hclear =>
    obtain ⟨-, hfirst⟩ := (portWrite_err_clear_iff total).1 (not_not.1 hclear)
    obtain ⟨-, hsecond⟩ := (portWrite_err_clear_iff wb).1 h
    rw [if_neg hclear, acceptedWords_portWrite_ok hsecond, acceptedWords_portWrite_ok hfirst, List.append_assoc]
    rfl

end Accepted

/-! ## The bits written -/

section Written
variable {c : Channel} {bits : List Bool}

/-- The bits of a value above its highest one bit are zeros. -/
theorem lowBits_add_of_lt {v : Word} {k : Nat} (h : v.toNat < 2 ^ k) (d : Nat) :
    lowBits v (k + d) = lowBits v k ++ List.replicate d false := by
  induction d with
  | zero => rw [List.replicate_zero, List.append_nil]; rfl
  | succ d ih =>
    have hbit : v.getLsbD (k + d) = false :=
      Nat.testBit_lt_two_pow (Nat.lt_of_lt_of_le h (Nat.pow_le_pow_right (by decide) (Nat.le_add_right k d)))
    rw [← Nat.add_assoc, lowBits_succ, ih, hbit, List.append_assoc, ← List.replicate_succ']

/-- A bit placed below 64 is appended to those written (41_bitchannel.md R140). -/
theorem placeBit_written (h : c.WriterOk) (hlt : c.cursor.toNat < 64) (b : Bool) :
    (placeBit b c).written = c.written ++ [b] := by
  simp only [Channel.written, lowBits_placeBit h hlt, placeBit_port, List.append_assoc]

/-- ACC goes out as a whole word: the bits above CURSOR go with it, as zeros. -/
theorem drained_written (h : c.WriterOk) (ha : c.port.nextWrite = .ok) :
    (drained c).written = c.written ++ List.replicate (64 - c.cursor.toNat) false := by
  have hword : wordBits c.acc = lowBits c.acc c.cursor.toNat ++ List.replicate (64 - c.cursor.toNat) false := by
    rw [← lowBits_add_of_lt h.2, Nat.add_sub_cancel' h.1]; rfl
  have htrace : acceptedWords (drained c).port.trace = acceptedWords c.port.trace ++ [c.acc] :=
    acceptedWords_portWrite_ok ha c.acc
  have hempty : lowBits (drained c).acc (drained c).cursor.toNat = [] := rfl
  simp only [Channel.written, htrace, hempty, List.flatMap_append, List.flatMap_singleton, hword, List.append_nil,
    List.append_assoc]

theorem writeBit_err_clear {b : Bool} (h : (writeBit b c).err = .clear) : c.err = .clear := by
  by_contra he
  rw [writeBit_of_err he] at h
  exact he h

theorem writeStream_err_clear (h : (writeStream bits c).err = .clear) : c.err = .clear := by
  by_contra he
  rw [writeStream_of_err he] at h
  exact he h

/-- A bit that leaves ERR clear is appended to those written (41_bitchannel.md R140). -/
theorem writeBit_written {b : Bool} (hc : c.WriterOk) (h : (writeBit b c).err = .clear) :
    (writeBit b c).written = c.written ++ [b] := by
  have he := writeBit_err_clear h
  rcases writeBit_cases he b with ⟨hroom, hw⟩ | ⟨hfull, ha, hw⟩ | ⟨-, ha, hw⟩
  · rw [hw, placeBit_written hc (cursor_ne_full hc.1 hroom)]
  · have hdrain := drained_written hc ha
    rw [hfull] at hdrain
    have hplace := placeBit_written (c := drained c) ⟨by simp, by simp⟩ (by simp) b
    rw [hdrain] at hplace
    rw [hw]
    exact hplace.trans (by simp)
  · rw [hw, portWrite_err he, ha] at h; cases h

/-- A stream that leaves ERR clear is appended to the bits written. -/
theorem writeStream_written (hc : c.WriterOk) (h : (writeStream bits c).err = .clear) :
    (writeStream bits c).written = c.written ++ bits := by
  induction bits generalizing c with
  | nil => exact (List.append_nil _).symm
  | cons b bits ih =>
    rw [writeStream_cons] at h ⊢
    rw [ih (writeBit_writerOk hc b) h, writeBit_written hc (writeStream_err_clear h), List.append_assoc]
    rfl

/-- A flush that leaves ERR clear fills the last word up with fewer than 64 zeros (41_bitchannel.md R143). -/
theorem flush_written (hc : c.WriterOk) (h : (flush c).err = .clear) :
    ∃ pad, pad < 64 ∧ (flush c).written = c.written ++ List.replicate pad false := by
  have he := flush_err_clear h
  rcases flush_cases he with ⟨-, hf⟩ | ⟨hpos, ha, hf⟩ | ⟨-, ha, hf⟩
  · exact ⟨0, by decide, by rw [hf]; exact (List.append_nil _).symm⟩
  · rw [ne_eq, cursor_eq_zero] at hpos
    refine ⟨64 - c.cursor.toNat, by omega, ?_⟩
    rw [hf]
    exact drained_written hc ha
  · rw [hf, portWrite_err he, ha] at h; cases h

/-- With nothing in ACC the bits written are those of the accepted words. -/
theorem written_of_empty (h : c.cursor = 0#7) : c.written = (acceptedWords c.port.trace).flatMap wordBits := by
  rw [Channel.written, h]
  exact List.append_nil _

end Written

end Sys2Proof.Machine
end

section
/-! The tokens CX.COMPRESS chooses: what the match search keeps, and that the chosen tokens spell the input. -/
namespace Sys2Proof.Machine

/-! ## The match search -/

section Search
variable {p : Params} {m : Memory} {src n i j window : Nat}

/-- The bytes counted by a run agree, and the run ends at the bytes it may compare or at the first that differs. -/
theorem runLength_spec (left k : Nat) :
    (∀ x, k ≤ x → x < runLength m src j i left k → m.byte (src + j + x) = m.byte (src + i + x))
      ∧ (runLength m src j i left k = k + left
          ∨ m.byte (src + j + runLength m src j i left k) ≠ m.byte (src + i + runLength m src j i left k)) := by
  induction left generalizing k with
  | zero => exact ⟨fun x hk hx => absurd hx (Nat.not_lt.2 hk), .inl rfl⟩
  | succ left ih =>
    unfold runLength
    split
    next hsame =>
      obtain ⟨hagree, hend⟩ := ih (k + 1)
      refine ⟨fun x hk hx => ?_, hend.imp_left fun h => by omega⟩
      rcases Nat.eq_or_lt_of_le hk with rfl | hk
      · exact hsame
      · exact hagree x hk hx
    next hdiff => exact ⟨fun x hk hx => absurd hx (Nat.not_lt.2 hk), .inr hdiff⟩

/-- `runLength` computes the run of a candidate (42_codec.md R173). -/
theorem runLength_isRun (m : Memory) (src n i j : Nat) : IsRun m src n i j (runLength m src j i (n - i) 0) := by
  obtain ⟨hagree, hend⟩ := runLength_spec (m := m) (src := src) (j := j) (i := i) (n - i) 0
  rw [Nat.zero_add] at hend
  exact ⟨by simpa using runLength_le m src j i (n - i) 0, fun x hx => hagree x (Nat.zero_le x) hx, hend⟩

/-- The starts searched are the candidates (42_codec.md R173). -/
theorem mem_searched_iff (hw : 0 < window) :
    j ∈ List.range' (firstCandidate p i window) (i - firstCandidate p i window) ↔ Candidate p i window j := by
  rw [List.mem_range'_1]
  unfold Candidate firstCandidate
  split
  next h => simp only [h, true_or, and_true]; omega
  next h => simp only [h, Bool.false_eq_true, false_or]; omega

/-- A distance and length the search may keep: none, or the run of a candidate (42_codec.md R173). -/
def KeptRun (p : Params) (m : Memory) (src n i window : Nat) (q : Nat × Nat) : Prop :=
  q = (0, 0) ∨ ∃ j, Candidate p i window j ∧ q.1 = i - j ∧ IsRun m src n i j q.2

theorem findMatch_keptRun (hw : 0 < window) : KeptRun p m src n i window (findMatch p m src n i window) := by
  refine List.foldlRecOn (motive := KeptRun p m src n i window) _ _ (.inl rfl) ?_
  intro q hq j hj
  unfold tryCandidate
  dsimp only
  split
  · exact .inr ⟨j, (mem_searched_iff hw).1 hj, rfl, runLength_isRun m src n i j⟩
  · exact hq

end Search

/-! ## The chosen tokens -/

section Tokens
variable {p : Params} {m : Memory} {src n i window : Nat} {tokens : List Token}

/-- From every input cursor some tokens are chosen: each moves the cursor forward within the buffer. -/
theorem exists_chosen (p : Params) (m : Memory) (src window : Nat) (hi : i ≤ n) :
    ∃ tokens, Chosen p m src n window i tokens := by
  induction hleft : n - i using Nat.strong_induction_on generalizing i with
  | _ left ih =>
    rcases Nat.eq_or_lt_of_le hi with rfl | hlt
    · exact ⟨[], rfl⟩
    · have hle := findMatch_length_le p m src n i window
      by_cases hlong : 2 < (findMatch p m src n i window).2
      · obtain ⟨ts, hts⟩ := ih _ (by omega) (i := i + (findMatch p m src n i window).2) (by omega) rfl
        exact ⟨_ :: ts, hlt, by rw [if_pos hlong]; exact ⟨rfl, hts⟩⟩
      · obtain ⟨ts, hts⟩ := ih _ (by omega) (i := i + 1) (by omega) rfl
        exact ⟨_ :: ts, hlt, by rw [if_neg hlong]; exact ⟨rfl, hts⟩⟩

/-- The chosen tokens spell the input: a literal is its byte, a match is the run of a candidate (42_codec.md R184 (a)). -/
theorem Chosen.spells (h : Chosen p m src n window i tokens) (hpos : 0 < window) (hwindow : window < 2 ^ 64)
    (hn : n < 2 ^ 64) : Spells (fun k => m.byte (src + k)) n window i tokens := by
  induction tokens generalizing i with
  | nil => exact h
  | cons t ts ih =>
    obtain ⟨hi, hchoice⟩ := h
    have hle := findMatch_length_le p m src n i window
    split at hchoice
    next hlong =>
      obtain ⟨rfl, hts⟩ := hchoice
      have hkept : KeptRun p m src n i window (findMatch p m src n i window) := findMatch_keptRun hpos
      rcases hkept with hnone | ⟨j, ⟨hji, hnear, -⟩, hdist, -, hagree, -⟩
      · rw [hnone] at hlong; exact absurd hlong (by decide)
      · have hlen : (BitVec.ofNat 64 (findMatch p m src n i window).2).toNat = (findMatch p m src n i window).2 := by
          rw [BitVec.toNat_ofNat]; omega
        have hback : (BitVec.ofNat 64 (findMatch p m src n i window).1).toNat = i - j := by
          rw [hdist, BitVec.toNat_ofNat]; omega
        simp only [Spells, hlen, hback]
        refine ⟨hlong, hle, by omega, by omega, Nat.sub_le i j, fun k hk => ?_, ih hts⟩
        have hsource : src + (i + k - (i - j)) = src + j + k := by omega
        rw [hsource, ← Nat.add_assoc, hagree k hk]
    next =>
      obtain ⟨rfl, hts⟩ := hchoice
      exact ⟨hi, rfl, ih hts⟩

end Tokens

/-! ## What CX.COMPRESS writes -/

section Payload
variable {s : State} {tokens : List Token}

/-- The payload words of CX.COMPRESS that completes with ERR clear: the codes of the chosen tokens, filled up with zeros by the
flush. -/
theorem compressed_payload
    (hc : Chosen s.param s.dmem s.arg0.toNat s.arg1.toNat (2 ^ s.arg2.toNat) 0 tokens)
    (h : (compressed s).chan.err = .clear) :
    ∃ (payload : List Word) (pad : Nat),
      acceptedWords (compressed s).chan.port.trace = acceptedWords (compressStart s).port.trace ++ payload
        ∧ payload.flatMap wordBits = payloadBits s tokens ++ List.replicate pad false ∧ pad < 64 := by
  have hend : (flush (compressTokens s).2).err = .clear := h
  have hstream := compressTokens_stream hc
  have hwriter := compressTokens_writerOk s
  have hwrites : (compressStart s).Writes (flush (compressTokens s).2) :=
    .flush (compressLoop_induct (fun b _ => .bit b) _ _ _ _ _ _ _ .refl)
  obtain ⟨payload, hpayload⟩ := hwrites.acceptedWords_prefix
  obtain ⟨pad, hpad, hflush⟩ := flush_written hwriter hend
  have hstart : (compressStart s).WriterOk := by simp [compressStart, Channel.WriterOk]
  have herr := flush_err_clear hend
  rw [hstream] at herr
  refine ⟨payload, pad, hpayload.symm, ?_, hpad⟩
  rw [written_of_empty (flush_clean hwriter hend).2, hstream, writeStream_written hstart herr,
    written_of_empty (by simp [compressStart]), ← hstream, ← hpayload, List.flatMap_append, List.append_assoc] at hflush
  exact List.append_cancel_left hflush

/-- With ERR clear at the end the host accepted the header (42_codec.md R171, R182). -/
theorem compressed_header (h : (compressed s).chan.err = .clear) :
    acceptedWords (compressStart s).port.trace = acceptedWords s.chan.port.trace ++ [s.arg1, s.arg2] := by
  have htokens : (compressTokens s).2.err = .clear := flush_err_clear h
  refine writeHeader_of_err_clear (c := s.chan.fresh) ?_
  by_contra hset
  have hstop : compressTokens s = (0, compressStart s) := compressLoop_of_err hset
  rw [hstop] at htokens
  exact hset htokens

end Payload

/-- Settles O49: the tokens chosen from cursor 0 on spell the input, and the words accepted are the header and their codes. -/
theorem compressWritesTokensThatSpellTheInput : Obligations.CompressWritesTokensThatSpellTheInput := by
  intro s t hdir herr hbuf hlow hhigh hexec hclear
  rw [exec_cxCompress hdir herr hbuf hlow hhigh] at hexec
  injection hexec with hexec
  subst hexec
  obtain ⟨tokens, hc⟩ := exists_chosen s.param s.dmem s.arg0.toNat (2 ^ s.arg2.toNat) (Nat.zero_le s.arg1.toNat)
  obtain ⟨payload, pad, hwords, hbits, hpad⟩ := compressed_payload hc hclear
  refine ⟨payload, tokens, pad, ?_, hbits, hpad, ?_, hc⟩
  · rw [hwords, compressed_header hclear, List.append_assoc]
    rfl
  · exact hc.spells (Nat.two_pow_pos _) (Nat.pow_lt_pow_right (by decide) (by omega)) s.arg1.isLt

end Sys2Proof.Machine
end

section
/-! The decoder of a CMD write: which values name a command, why the others name none, and what a write of one of those does. -/
namespace Sys2Proof.Machine

/-! ## The decoder, case by case -/

section Decoder
variable {v : Word} {i : Instr}

/-- What the decoder answers (30_encoding.md R81, R84): an OP without a row is found before a reserved bit. -/
theorem decode_cases (v : Word) :
    (opTable.lookup (opField v) = none ∧ decode v = .error .illegalCommand)
      ∨ ∃ i, opTable.lookup (opField v) = some i
          ∧ ((reservedField v = 0#56 ∧ decode v = .ok i) ∨ (reservedField v ≠ 0#56 ∧ decode v = .error .reservedBits)) := by
  unfold decode
  cases opTable.lookup (opField v) with
  | none => exact .inl ⟨rfl, rfl⟩
  | some i =>
    by_cases h : reservedField v = 0#56
    · exact .inr ⟨i, rfl, .inl ⟨h, if_pos h⟩⟩
    · exact .inr ⟨i, rfl, .inr ⟨h, if_neg h⟩⟩

theorem decode_eq_ok_iff : decode v = .ok i ↔ opTable.lookup (opField v) = some i ∧ reservedField v = 0#56 := by
  rcases decode_cases v with ⟨hop, hd⟩ | ⟨j, hop, ⟨hbits, hd⟩ | ⟨hbits, hd⟩⟩
  · simp [hop, hd]
  · simp [hop, hd, hbits]
  · simp [hop, hd, hbits]

theorem decode_eq_illegalCommand_iff : decode v = .error .illegalCommand ↔ opTable.lookup (opField v) = none := by
  rcases decode_cases v with ⟨hop, hd⟩ | ⟨j, hop, ⟨-, hd⟩ | ⟨-, hd⟩⟩
  all_goals simp [hop, hd]

theorem decode_eq_reservedBits_iff :
    decode v = .error .reservedBits ↔ opTable.lookup (opField v) ≠ none ∧ reservedField v ≠ 0#56 := by
  rcases decode_cases v with ⟨hop, hd⟩ | ⟨j, hop, ⟨hbits, hd⟩ | ⟨hbits, hd⟩⟩
  · simp [hop, hd]
  · simp [hop, hd, hbits]
  · simp [hop, hd, hbits]

/-! ## The fields as numbers -/

/-- OP as a number (30_encoding.md R80). -/
theorem opField_toNat (v : Word) : (opField v).toNat = v.toNat % 256 := by simp [opField]

/-- The reserved bits are 0 exactly below 256 (30_encoding.md R80). -/
theorem reservedField_eq_zero_iff : reservedField v = 0#56 ↔ v.toNat < 256 := by
  have hv := v.isLt
  rw [← BitVec.toNat_inj, reservedField, BitVec.extractLsb'_toNat, Nat.shiftRight_eq_div_pow]
  simp only [BitVec.toNat_ofNat]
  omega

/-- A value without reserved bits is its OP zero-extended. -/
theorem eq_setWidth_opField (h : reservedField v = 0#56) : v = (opField v).setWidth 64 := by
  rw [reservedField_eq_zero_iff] at h
  apply BitVec.eq_of_toNat_eq
  rw [toNat_setWidth64 _ (by decide), opField_toNat, Nat.mod_eq_of_lt h]

/-! ## The opcode map -/

/-- The values of OP that are not assigned (30_encoding.md R84). -/
def UnassignedOp (op : Nat) : Prop := op = 0 ∨ (0x08 ≤ op ∧ op ≤ 0x0F) ∨ (0x1A ≤ op ∧ op ≤ 0x1F) ∨ 0x24 ≤ op

/-- Every row of the opcode map gives the OP of its command's CMD value (30_encoding.md R82, R90). -/
theorem opTable_cmdValue : ∀ row ∈ opTable, row.1.setWidth 64 = cmdValue row.2 := by decide

theorem mem_opTable_of_lookup {op : BitVec 8} (h : opTable.lookup op = some i) : (op, i) ∈ opTable := by
  obtain ⟨before, after, happ, -⟩ := List.lookup_eq_some_iff.1 h
  rw [happ]
  exact List.mem_append_right _ List.mem_cons_self

/-- The opcode map has no row exactly for the unassigned values of OP (30_encoding.md R82, R84). -/
theorem lookup_opTable_eq_none_iff (op : BitVec 8) : opTable.lookup op = none ↔ UnassignedOp op.toNat := by
  have hop := op.isLt
  rw [List.lookup_eq_none_iff]
  simp only [opTable, List.forall_mem_cons, List.not_mem_nil, false_implies, implies_true, and_true, bne_iff_ne, ne_eq,
    ← BitVec.toNat_inj, BitVec.toNat_ofNat]
  unfold UnassignedOp
  omega

/-! ## Which values name a command -/

theorem decode_illegalCommand_iff (v : Word) :
    decode v = .error .illegalCommand ↔ UnassignedOp (v.toNat % 256) := by
  rw [decode_eq_illegalCommand_iff, lookup_opTable_eq_none_iff, opField_toNat]

theorem decode_reservedBits_iff (v : Word) :
    decode v = .error .reservedBits ↔ ¬ UnassignedOp (v.toNat % 256) ∧ 256 ≤ v.toNat := by
  rw [decode_eq_reservedBits_iff, ne_eq, lookup_opTable_eq_none_iff, opField_toNat, ne_eq, reservedField_eq_zero_iff,
    Nat.not_lt]

/-- A value that decodes is the command's CMD value. -/
theorem eq_cmdValue_of_decode (h : decode v = .ok i) : v = cmdValue i := by
  obtain ⟨hop, hreserved⟩ := decode_eq_ok_iff.1 h
  calc v = (opField v).setWidth 64 := eq_setWidth_opField hreserved
    _ = cmdValue i := opTable_cmdValue _ (mem_opTable_of_lookup hop)

/-- A command's word, as the opcode table numbers its bits, decodes to the command. -/
theorem decodeTableWord_encode (i : Instr) : decodeTableWord 32 (encode i).toNat = some i := by
  have hvalue : tableValue 32 (encode i).toNat = cmdValue i := by
    rw [tableValue, Nat.mod_eq_of_lt (encode i).isLt]
    exact BitVec.ofNat_toNat 64 (encode i)
  simp [decodeTableWord, hvalue, decode_cmdValue]

end Decoder

/-- Settles O1: the round trip one way, the fields of a value that decodes the other. -/
theorem decodeAcceptsExactlyTheCommandValues : Obligations.DecodeAcceptsExactlyTheCommandValues := by
  intro v i
  refine ⟨eq_cmdValue_of_decode, ?_⟩
  rintro rfl
  exact decode_cmdValue i

/-- Settles O2: the opcode map has a row for the assigned values of OP only, and the reserved bits are 0 below 256. -/
theorem decodeErrorsByOpcodeAndReservedBits : Obligations.DecodeErrorsByOpcodeAndReservedBits := by
  rintro v op rfl
  exact ⟨decode_illegalCommand_iff v, decode_reservedBits_iff v⟩

/-- Settles O3: the accepted words are those of six commands; the refused values by their low byte and their size. -/
theorem writtenOutWordsDecode : Obligations.WrittenOutWordsDecode := by
  refine ⟨decodeTableWord_encode .heapAdd, decodeTableWord_encode .heapRdtab, decodeTableWord_encode .bcOpenw,
    decodeTableWord_encode .bcRnum, decodeTableWord_encode .cxCompress, decodeTableWord_encode .cxDecompress, ?_, ?_, ?_⟩
  · exact (decode_illegalCommand_iff _).2 (.inl rfl)
  · exact (decode_reservedBits_iff _).2 (by unfold UnassignedOp; decide)
  · exact (decode_reservedBits_iff _).2 (by unfold UnassignedOp; decide)

/-! ## A CMD write that names no command -/

section Undecoded
variable {s : State} {rest : List HostAction} {v : Word}

/-- A write to CMD that the block accepts runs the value written, with BUSY 1 (10_state.md R37). -/
theorem step_cmdWrite (hp : s.pending = .regWrite 64 (s.param.regBase + 0x08) v :: rest) (hbusy : s.busy = false)
    (hfault : s.faultCause = .none) :
    step s = runCommand v ({ s with pending := rest }.begin (v.setWidth 32)) := by
  calc step s = act (.regWrite 64 (s.param.regBase + 0x08) v) { s with pending := rest } := step_pending hp
    _ = hostWrite 0x08 v { s with pending := rest } := act_regWrite { s with pending := rest } v (by decide) (by decide)
    _ = _ := by simp [hostWrite, issue, State.faulted, hbusy, hfault]

/-- A write to CMD of a value that does not decode records the fault and ends; nothing else happens (30_encoding.md R81, R84). -/
theorem step_cmdWrite_of_error {e : DecodeError}
    (hp : s.pending = .regWrite 64 (s.param.regBase + 0x08) v :: rest) (hbusy : s.busy = false)
    (hfault : s.faultCause = .none) (h : decode v = .error e) :
    step s = .next { s with pending := rest, cmdWord := v.setWidth 32
                            faultCause := decodeCause e, faultWord := v.setWidth 32 } := by
  have hclear : ({ s with pending := rest }.begin (v.setWidth 32)).faultCause = .none := hfault
  rw [step_cmdWrite hp hbusy hfault, runCommand_of_error _ h, State.raiseFault, State.recordFault_of_clear hclear]
  simp only [State.begin, State.finish, hbusy]

end Undecoded

/-- Settles O5: which values do not decode, and what a write of one of them does. -/
theorem unassignedOrReservedWordFaults : Obligations.UnassignedOrReservedWordFaults := by
  rintro s rest v op hp hbusy hfault rfl
  refine ⟨fun hop => ⟨v.setWidth 32, ?_⟩, fun hop hbits => ⟨v.setWidth 32, ?_⟩⟩
  · exact step_cmdWrite_of_error hp hbusy hfault ((decode_illegalCommand_iff v).2 hop)
  · exact step_cmdWrite_of_error hp hbusy hfault ((decode_reservedBits_iff v).2 ⟨hop, hbits⟩)

end Sys2Proof.Machine
end

section
/-! The order of the heap: the array tree, what `siftUp` and `siftDown` make of the nodes, and the order they
restore (40_heap.md R102, R103). -/
namespace Sys2Proof.Machine

/-! ## The array tree (10_state.md R25) -/

section Tree
variable {a k ix : Nat}

theorem parentIx_lt (hpos : 0 < k) : parentIx k < k := by unfold parentIx; omega

/-- The children of an index are the positive indices it is the parent of. -/
theorem parentIx_eq_iff (hpos : 0 < k) : parentIx k = a ↔ k = leftIx a ∨ k = rightIx a := by
  unfold parentIx leftIx rightIx
  omega

/-- The bound on the rounds does not matter when it is large enough. -/
theorem ancestorsLoop_congr {f g : Nat} (hf : ix ≤ f) (hg : ix ≤ g) : ancestorsLoop f ix = ancestorsLoop g ix := by
  induction f generalizing ix g with
  | zero =>
    obtain rfl := Nat.le_zero.1 hf
    cases g <;> rfl
  | succ f ih =>
    cases g with
    | zero =>
      obtain rfl := Nat.le_zero.1 hg
      rfl
    | succ g =>
      unfold ancestorsLoop
      split
      next hpos =>
        have := parentIx_lt hpos
        rw [ih (g := g) (by omega) (by omega)]
      next => rfl

@[simp] theorem ancestors_zero : ancestors 0 = [] := rfl

theorem ancestors_of_pos (hpos : 0 < k) : ancestors k = parentIx k :: ancestors (parentIx k) := by
  obtain ⟨fuel, rfl⟩ := Nat.exists_eq_add_one.2 hpos
  have := parentIx_lt hpos
  rw [ancestors, ancestorsLoop, if_pos hpos, ancestorsLoop_congr (by omega) (le_refl _), ← ancestors]

theorem lt_of_mem_ancestors (ha : a ∈ ancestors k) : a < k := by
  induction k using Nat.strong_induction_on with
  | _ k ih =>
    rcases Nat.eq_zero_or_pos k with rfl | hpos
    · simp at ha
    · have hlt := parentIx_lt hpos
      rw [ancestors_of_pos hpos, List.mem_cons] at ha
      rcases ha with rfl | ha
      · exact hlt
      · exact (ih _ hlt ha).trans hlt

theorem le_of_mem_path (ha : a ∈ k :: ancestors k) : a ≤ k := by
  rcases List.mem_cons.1 ha with rfl | ha
  · exact Nat.le_refl a
  · exact Nat.le_of_lt (lt_of_mem_ancestors ha)

theorem parentIx_mem_ancestors (hpos : 0 < k) : parentIx k ∈ ancestors k := by
  rw [ancestors_of_pos hpos]
  exact List.mem_cons_self

theorem not_mem_ancestors_self : k ∉ ancestors k := fun h => Nat.lt_irrefl k (lt_of_mem_ancestors h)

/-- The path from an index on it upward is part of the path. -/
theorem path_subset {p : Nat} (hk : k ∈ p :: ancestors p) : k :: ancestors k ⊆ p :: ancestors p := by
  induction p using Nat.strong_induction_on with
  | _ p ih =>
    rcases List.mem_cons.1 hk with rfl | hk
    · exact List.Subset.refl _
    · have hpos : 0 < p := Nat.lt_of_le_of_lt (Nat.zero_le k) (lt_of_mem_ancestors hk)
      rw [ancestors_of_pos hpos] at hk ⊢
      exact fun a ha => List.mem_cons_of_mem _ (ih _ (parentIx_lt hpos) hk ha)

theorem zero_mem_path (k : Nat) : 0 ∈ k :: ancestors k := by
  induction k using Nat.strong_induction_on with
  | _ k ih =>
    rcases Nat.eq_zero_or_pos k with rfl | hpos
    · simp
    · rw [ancestors_of_pos hpos]
      exact List.mem_cons_of_mem _ (ih _ (parentIx_lt hpos))

theorem ancestors_subset {p : Nat} (hk : k ∈ p :: ancestors p) : ancestors k ⊆ ancestors p := by
  rcases List.mem_cons.1 hk with rfl | hk
  · exact List.Subset.refl _
  · have hpos : 0 < p := Nat.lt_of_le_of_lt (Nat.zero_le k) (lt_of_mem_ancestors hk)
    rw [ancestors_of_pos hpos] at hk ⊢
    exact fun a ha => path_subset hk (List.mem_cons_of_mem _ ha)

/-- Every index but the root has a sibling. -/
theorem exists_sibling (hpos : 0 < a) : ∃ b, 0 < b ∧ b ≠ a ∧ parentIx b = parentIx a
    ∧ (a = leftIx (parentIx a) ∧ b = rightIx (parentIx a) ∨ a = rightIx (parentIx a) ∧ b = leftIx (parentIx a)) := by
  rcases (parentIx_eq_iff hpos).1 rfl with he | he
  · refine ⟨rightIx (parentIx a), by unfold rightIx; omega, ?_, (parentIx_eq_iff (by unfold rightIx; omega)).2 (.inr rfl),
      .inl ⟨he, rfl⟩⟩
    unfold leftIx rightIx at *
    omega
  · refine ⟨leftIx (parentIx a), by unfold leftIx; omega, ?_, (parentIx_eq_iff (by unfold leftIx; omega)).2 (.inl rfl),
      .inr ⟨he, rfl⟩⟩
    unfold leftIx rightIx at *
    omega

/-- A sibling of a node is not on its path. -/
theorem sibling_not_mem_path {b : Nat} (ha : 0 < a) (hb : 0 < b) (hne : b ≠ a) (hpar : parentIx b = parentIx a) :
    b ∉ a :: ancestors a := by
  have hlt := parentIx_lt hb
  rw [ancestors_of_pos ha]
  intro hm
  rcases List.mem_cons.1 hm with hm | hm
  · exact hne hm
  · rcases List.mem_cons.1 hm with hm | hm
    · omega
    · have := lt_of_mem_ancestors hm
      omega

end Tree

/-! ## Nodes and swaps -/

/-- The node at an index: its frequency and its symbol. -/
def Fhu.node (h : Fhu) (k : Nat) : Word × Entry := (h.freqAt k, h.symAt k)

/-- `g` has the nodes of `h` with those at `a` and `b` exchanged. -/
def Fhu.Swapped (a b : Nat) (h g : Fhu) : Prop :=
  ∀ k, g.node k = if k = a then h.node b else if k = b then h.node a else h.node k

section Swap
variable {p : Params} {n a b : Nat} {h g : Fhu}

theorem Fhu.node_eq_iff {k j : Nat} : g.node k = h.node j ↔ g.freqAt k = h.freqAt j ∧ g.symAt k = h.symAt j :=
  Prod.ext_iff

theorem Fhu.freqAt_of_node {k : Nat} {v : Word × Entry} (he : g.node k = v) : g.freqAt k = v.1 := congrArg Prod.fst he

theorem Fhu.symAt_of_node {k : Nat} {v : Word × Entry} (he : g.node k = v) : g.symAt k = v.2 := congrArg Prod.snd he

theorem Fhu.Linked.swapped (hl : h.Linked p n) (ha : a < n) (hb : b < n) : h.Swapped a b (h.swap a b) := by
  have hcap := hl.bound
  intro k
  simp only [Fhu.node]
  rw [Fhu.swap_freqAt (by rw [hl.freqLength]; omega) (by rw [hl.freqLength]; omega),
    Fhu.swap_symAt (by rw [hl.symLength]; omega) (by rw [hl.symLength]; omega)]
  split_ifs <;> rfl

theorem Fhu.Swapped.left (hs : h.Swapped a b g) : g.node a = h.node b := by rw [hs a, if_pos rfl]

theorem Fhu.Swapped.right (hs : h.Swapped a b g) : g.node b = h.node a := by
  rw [hs b]
  split
  next hba => rw [hba]
  next => rw [if_pos rfl]

theorem Fhu.Swapped.other (hs : h.Swapped a b g) {k : Nat} (hka : k ≠ a) (hkb : k ≠ b) : g.node k = h.node k := by
  rw [hs k, if_neg hka, if_neg hkb]

/-- A swap of two live nodes does not depend on their order: two leaves have different symbols. -/
theorem Fhu.Linked.swap_comm (hl : h.Linked p n) (ha : a < n) (hb : b < n) (hab : a ≠ b) : h.swap a b = h.swap b a := by
  have table : (h.swapTable a b).table = (h.swapTable b a).table := by
    unfold Fhu.swapTable
    dsimp only
    by_cases hsa : h.symAt a = internal
    · simp [hsa]
    · by_cases hsb : h.symAt b = internal
      · simp [hsb]
      · have hne : (h.symAt a).toNat ≠ (h.symAt b).toNat := fun he =>
          hab (hl.leaf_unique ha hb hsa (BitVec.eq_of_toNat_eq he))
        simp [hsa, hsb, Fhu.setTable, Fhu.tableAt, List.set_comm _ _ hne]
  unfold Fhu.swap
  dsimp only
  rw [table, List.set_comm _ _ hab, List.set_comm (l := h.sym) _ _ hab]
  simp

/-- The nodes below `n` after a swap are a rearrangement. -/
theorem Fhu.Swapped.perm (hs : h.Swapped a b g) (ha : a < n) (hb : b < n) :
    ((List.range n).map g.node).Perm ((List.range n).map h.node) := by
  have hnode : g.node = h.node ∘ Equiv.swap a b := by
    funext k
    rw [hs k, Function.comp_apply, Equiv.swap_apply_def]
    split_ifs <;> rfl
  rw [hnode, ← List.map_map]
  refine List.Perm.map _ ((List.perm_ext_iff_of_nodup ?_ List.nodup_range).2 fun k => ?_)
  · exact List.nodup_range.map (Equiv.injective _)
  · rw [List.mem_map]
    constructor
    · rintro ⟨j, hj, rfl⟩
      rw [List.mem_range] at hj ⊢
      rw [Equiv.swap_apply_def]
      split_ifs <;> omega
    · intro hk
      refine ⟨Equiv.swap a b k, ?_, Equiv.swap_apply_self a b k⟩
      rw [List.mem_range] at hk ⊢
      rw [Equiv.swap_apply_def]
      split_ifs <;> omega

end Swap

/-! ## `siftUp` (40_heap.md R102) -/

/-- The node at `p` of `h` has climbed to `ix` of `g`: it passed ancestors of lower frequency, each of which stands one place
down the path, and every other node stays. -/
structure Fhu.Climbed (h : Fhu) (p ix : Nat) (g : Fhu) : Prop where
  onPath : ix ∈ p :: ancestors p
  passed_lt : ∀ a, a ∈ ancestors p → a ∉ ancestors ix → h.freqAt a < h.freqAt p
  moved : g.node ix = h.node p
  passed : ∀ a, a ∈ p :: ancestors p → a ∉ ix :: ancestors ix → g.node a = h.node (parentIx a)
  stays : ∀ a, a ∉ p :: ancestors p ∨ a ∈ ancestors ix → g.node a = h.node a

section SiftUp
variable {p : Params} {n i k : Nat} {h f g : Fhu}

theorem Fhu.Climbed.refl (h : Fhu) (i : Nat) : h.Climbed i i h :=
  ⟨List.mem_cons_self, fun _ ha hn => absurd ha hn, rfl, fun _ ha hn => absurd ha hn, fun _ _ => rfl⟩

/-- One round of the loop: the node passes its parent. -/
theorem Fhu.Climbed.step (hc : h.Climbed i k f) (hpos : 0 < k) (hlt : f.freqAt (parentIx k) < f.freqAt k)
    (hs : f.Swapped k (parentIx k) g) : h.Climbed i (parentIx k) g := by
  have hq := parentIx_lt hpos
  have hanc : ancestors k = parentIx k :: ancestors (parentIx k) := ancestors_of_pos hpos
  have hparent := parentIx_mem_ancestors hpos
  have hup : parentIx k ∈ ancestors i := ancestors_subset hc.onPath hparent
  have hkeep := Fhu.node_eq_iff.1 (hc.stays _ (.inr hparent))
  refine ⟨List.mem_cons_of_mem _ hup, fun a ha hna => ?_, hs.right.trans hc.moved, fun a ha hna => ?_, fun a ha => ?_⟩
  · by_cases hak : a ∈ ancestors k
    · obtain rfl : a = parentIx k := by rw [hanc] at hak; exact (List.mem_cons.1 hak).resolve_right hna
      rw [← hkeep.1, ← (Fhu.node_eq_iff.1 hc.moved).1]
      exact hlt
    · exact hc.passed_lt a ha hak
  · rw [← hanc] at hna
    by_cases hak : a = k
    · rw [hak, hs.left]
      exact hc.stays _ (.inr hparent)
    · rw [hs.other hak (fun he => hna (he ▸ hparent))]
      exact hc.passed a ha (List.not_mem_cons_of_ne_of_not_mem hak hna)
  · have hoff : a ≠ k ∧ a ≠ parentIx k := by
      rcases ha with ha | ha
      · exact ⟨fun he => ha (he ▸ hc.onPath), fun he => ha (he ▸ List.mem_cons_of_mem _ hup)⟩
      · have := lt_of_mem_ancestors ha
        omega
    rw [hs.other hoff.1 hoff.2]
    exact hc.stays a (ha.imp_right fun ha => by rw [hanc]; exact List.mem_cons_of_mem _ ha)

/-- What every swap of two live nodes keeps, `siftUp` keeps; `P` follows the index. -/
theorem Fhu.Linked.siftUp_induct (hl : h.Linked p n) (hi : i < n) {P : Nat → Fhu → Prop} (h0 : P i h)
    (step : ∀ k f, f.Linked p n → k < n → P k f → 0 < k → f.freqAt (parentIx k) < f.freqAt k →
      P (parentIx k) (f.swap k (parentIx k))) :
    P (h.siftUp i).1 (h.siftUp i).2 := by
  have loop : (Fhu.siftUpLoop i i h).1 < n ∧ (Fhu.siftUpLoop i i h).2.Linked p n
      ∧ P (Fhu.siftUpLoop i i h).1 (Fhu.siftUpLoop i i h).2 := by
    refine Fhu.siftUpLoop_induct (P := fun k f => k < n ∧ f.Linked p n ∧ P k f) ?_ i ⟨hi, hl, h0⟩
    rintro k f ⟨hk, hf, hP⟩ hpos hlt
    have hq := parentIx_lt hpos
    exact ⟨by omega, (hf.swap hk (by omega) (by omega)).linked, step k f hf hk hP hpos hlt⟩
  obtain ⟨hlt, hlink, hP⟩ := loop
  rw [Fhu.siftUp, hlink.fixEntry_eq hlt]
  exact hP

theorem Fhu.Linked.siftUp_climbed (hl : h.Linked p n) (hi : i < n) : h.Climbed i (h.siftUp i).1 (h.siftUp i).2 := by
  refine hl.siftUp_induct hi (P := fun k f => h.Climbed i k f) (.refl h i) fun k f hf hk hc hpos hlt => ?_
  have hq := parentIx_lt hpos
  exact hc.step hpos hlt (hf.swapped hk (by omega))

theorem Fhu.Linked.siftUp_perm (hl : h.Linked p n) (hi : i < n) :
    ((List.range n).map (h.siftUp i).2.node).Perm ((List.range n).map h.node) := by
  refine hl.siftUp_induct hi (P := fun _ f => ((List.range n).map f.node).Perm ((List.range n).map h.node)) (.refl _)
    fun k f hf hk hperm hpos _ => ?_
  have hq := parentIx_lt hpos
  exact ((hf.swapped hk (by omega)).perm hk (by omega)).trans hperm

/-- `siftUp` ends at the root or under a parent at least as frequent. -/
theorem Fhu.siftUp_stops (h : Fhu) (i : Nat) :
    (h.siftUp i).1 = 0 ∨ (h.siftUp i).2.freqAt (h.siftUp i).1 ≤ (h.siftUp i).2.freqAt (parentIx (h.siftUp i).1) := by
  have hkeep : (h.siftUp i).2.freqAt = (Fhu.siftUpLoop i i h).2.freqAt := by
    funext k
    simp [Fhu.siftUp, Fhu.freqAt]
  rw [hkeep]
  exact (Fhu.siftUpLoop_stops (h := h) (le_refl i)).imp_right BitVec.not_lt.1

/-- A node that exceeds no parent does not move. -/
theorem Fhu.Linked.siftUp_of_le (hl : h.Linked p n) (hi : i < n) (hle : i = 0 ∨ h.freqAt i ≤ h.freqAt (parentIx i)) :
    h.siftUp i = (i, h) := by
  have loop : Fhu.siftUpLoop i i h = (i, h) := by
    cases i with
    | zero => rfl
    | succ i => rw [Fhu.siftUpLoop, if_neg fun hc => BitVec.not_lt.2 (hle.resolve_left (by omega)) hc.2]
  rw [Fhu.siftUp, loop, hl.fixEntry_eq hi]

end SiftUp

/-! ## `H` over the first nodes -/

/-- `H` over the indices below `n`, but for the edge from `i` to its parent; with the second clause that node may pass its
parent. -/
structure Fhu.OrderedBut (n i : Nat) (h : Fhu) : Prop where
  edge : ∀ c, 0 < c → c < n → c ≠ i → h.freqAt c ≤ h.freqAt (parentIx c)
  across : ∀ c, 0 < c → c < n → parentIx c = i → 0 < i → h.freqAt c ≤ h.freqAt (parentIx i)

/-- `H` over the indices below `n`. -/
def Fhu.OrderedTo (n : Nat) (h : Fhu) : Prop := ∀ c, 0 < c → c < n → h.freqAt c ≤ h.freqAt (parentIx c)

section Order
variable {p : Params} {n i k : Nat} {h g : Fhu}

/-- `H` is the order of every live index but the root with its parent (10_state.md R25, R26). -/
theorem Fhu.ordered_iff (h : Fhu) : h.Ordered ↔ h.OrderedTo h.nc.toNat := by
  constructor
  · intro ho c hpos hc
    exact ho (parentIx c) c ((parentIx_eq_iff hpos).1 rfl) hc
  · intro ho ix c hchild hc
    have hpos : 0 < c := by unfold leftIx rightIx at hchild; omega
    rw [← (parentIx_eq_iff hpos).2 hchild]
    exact ho c hpos hc

/-- One round of `siftUp`'s loop moves the edge that may be wrong one place up. -/
theorem Fhu.OrderedBut.step (ho : h.OrderedBut n k) (hpos : 0 < k) (hk : k < n)
    (hlt : h.freqAt (parentIx k) < h.freqAt k) (hs : h.Swapped k (parentIx k) g) : g.OrderedBut n (parentIx k) := by
  have hq := parentIx_lt hpos
  have hk' : g.freqAt k = h.freqAt (parentIx k) := Fhu.freqAt_of_node hs.left
  have hq' : g.freqAt (parentIx k) = h.freqAt k := Fhu.freqAt_of_node hs.right
  have hother : ∀ j, j ≠ k → j ≠ parentIx k → g.freqAt j = h.freqAt j := fun j hjk hjq =>
    Fhu.freqAt_of_node (hs.other hjk hjq)
  constructor
  · intro c hc hcn hcq
    have hpc := parentIx_lt hc
    by_cases hck : c = k
    · rw [hck, hk', hq']
      exact BitVec.le_of_lt hlt
    · rw [hother c hck hcq]
      by_cases hpk : parentIx c = k
      · rw [hpk, hk']
        exact ho.across c hc hcn hpk hpos
      · by_cases hpq : parentIx c = parentIx k
        · rw [hpq, hq']
          exact BitVec.le_trans (hpq ▸ ho.edge c hc hcn hck) (BitVec.le_of_lt hlt)
        · rw [hother _ hpk hpq]
          exact ho.edge c hc hcn hck
  · intro c hc hcn hpc hqpos
    have hqq := parentIx_lt hqpos
    have hqedge := ho.edge (parentIx k) hqpos (by omega) (by omega)
    rw [hother (parentIx (parentIx k)) (by omega) (by omega)]
    by_cases hck : c = k
    · rw [hck, hk']
      exact hqedge
    · have hcq : c ≠ parentIx k := fun he => by have := parentIx_lt hc; omega
      rw [hother c hck hcq]
      exact BitVec.le_trans (hpc ▸ ho.edge c hc hcn hck) hqedge

/-- `siftUp` restores `H` (40_heap.md R102). -/
theorem Fhu.Linked.siftUp_ordered (hl : h.Linked p n) (hi : i < n) (ho : h.OrderedBut n i) : (h.siftUp i).2.OrderedTo n := by
  have hbut : (h.siftUp i).2.OrderedBut n (h.siftUp i).1 := by
    refine hl.siftUp_induct hi (P := fun k f => f.OrderedBut n k) ho fun k f hf hk hP hpos hlt => ?_
    have hq := parentIx_lt hpos
    exact hP.step hpos hk hlt (hf.swapped hk (by omega))
  intro c hc hcn
  by_cases hix : c = (h.siftUp i).1
  · rcases h.siftUp_stops i with h0 | hstop
    · omega
    · rw [hix]; exact hstop
  · exact hbut.edge c hc hcn hix

/-- A last node of any frequency may exceed its parent only. -/
theorem Fhu.OrderedTo.orderedBut_last (ho : h.OrderedTo n) (hsame : ∀ k, k < n → g.freqAt k = h.freqAt k) :
    g.OrderedBut (n + 1) n := by
  constructor
  · intro c hc hcn hne
    have := parentIx_lt hc
    rw [hsame c (by omega), hsame _ (by omega)]
    exact ho c hc (by omega)
  · intro c hc hcn hpar
    have := parentIx_lt hc
    omega

end Order

/-! ## `siftDown` (40_heap.md R103) -/

section SiftDown
variable {p : Params} {n i : Nat} {h : Fhu}

/-- A node that no live child exceeds does not move. -/
theorem Fhu.siftDown_of_le (hle : ∀ c, 0 < c → c < h.nc.toNat → parentIx c = i → h.freqAt c ≤ h.freqAt i) :
    h.siftDown i = (i, h) := by
  unfold Fhu.siftDown
  generalize hfuel : h.nc.toNat = fuel
  cases fuel with
  | zero => rfl
  | succ fuel =>
    unfold Fhu.siftDownLoop
    split
    next => rfl
    next hlive =>
      have hchild : h.freqAt (h.largerChild i) ≤ h.freqAt i := by
        rcases h.largerChild_cases i with ⟨he, hlt⟩ | he <;> rw [he]
        · exact hle _ (by unfold rightIx; omega) hlt (by unfold parentIx rightIx; omega)
        · exact hle _ (by unfold leftIx; omega) (by omega) (by unfold parentIx leftIx; omega)
      rw [if_neg (BitVec.not_lt.2 hchild)]

theorem Fhu.Linked.siftDown_perm (hl : h.Linked p n) (hnc : h.nc.toNat ≤ n) (hi : i < n) :
    ((List.range n).map (h.siftDown i).2.node).Perm ((List.range n).map h.node) := by
  have all : (h.siftDown i).1 < n ∧ Fhu.Keeps p n h (h.siftDown i).2
      ∧ ((List.range n).map (h.siftDown i).2.node).Perm ((List.range n).map h.node) := by
    refine Fhu.siftDownLoop_induct
      (P := fun k g => k < n ∧ Fhu.Keeps p n h g ∧ ((List.range n).map g.node).Perm ((List.range n).map h.node))
      ?_ h.nc.toNat ⟨hi, .refl hl, .refl _⟩
    rintro k g ⟨hk, hg, hperm⟩ hleft -
    have hnc' : g.nc.toNat ≤ n := hg.nc ▸ hnc
    have hchild : k < g.largerChild k ∧ g.largerChild k < n := by
      rcases g.largerChild_cases k with ⟨he, hlt⟩ | he <;> rw [he]
      · exact ⟨by unfold rightIx; omega, by omega⟩
      · exact ⟨by unfold leftIx; omega, by omega⟩
    exact ⟨hchild.2, hg.trans (hg.linked.swap hk hchild.2 (by omega)),
      ((hg.linked.swapped hk hchild.2).perm hk hchild.2).trans hperm⟩
  exact all.2.2

end SiftDown

end Sys2Proof.Machine
end

section
/-! HEAP.ADD and HEAP.INC as an append or an increment followed by one `siftUp`, and the ancestor recompute (40_heap.md R111,
R112). -/
namespace Sys2Proof.Machine

/-! ## Appending a node -/

/-- The heap with the merged node appended and counted, before the merge sifts it (40_heap.md R111). -/
def Fhu.grown (h : Fhu) : Fhu :=
  ((h.setFreq h.nc.toNat (h.freqAt (h.nc.toNat - 2) + h.freqAt (h.nc.toNat - 1))).setSym h.nc.toNat internal).incNc

/-- The heap HEAP.ADD places the leaf in: merged from two live nodes on (40_heap.md R111). -/
def Fhu.beforeLeaf (h : Fhu) : Fhu := if h.nc.toNat < 2 then h else h.merge

section Append
variable {p : Params} {n i : Nat} {h : Fhu}

theorem Fhu.merge_eq (h : Fhu) : h.merge =
    ((((h.grown.siftDown (h.nc.toNat - 2)).2.siftDown (h.nc.toNat - 1)).2).siftUp h.nc.toNat).2 := rfl

theorem Fhu.Linked.grown (hl : h.Linked p h.nc.toNat) (hcap : h.nc.toNat < p.cap) :
    h.grown.Linked p (h.nc.toNat + 1) ∧ h.grown.nc.toNat = h.nc.toNat + 1 := by
  obtain ⟨happ, -⟩ := hl.appendInternal hcap (h.freqAt (h.nc.toNat - 2) + h.freqAt (h.nc.toNat - 1))
  exact ⟨happ.incNc, happ.incNc_toNat rfl⟩

theorem Fhu.Linked.grown_node (hl : h.Linked p h.nc.toNat) (hcap : h.nc.toNat < p.cap) (k : Nat) :
    h.grown.node k = if k = h.nc.toNat then (h.freqAt (h.nc.toNat - 2) + h.freqAt (h.nc.toNat - 1), internal)
      else h.node k := by
  simp only [Fhu.node, Fhu.grown, Fhu.incNc_freqAt, Fhu.incNc_symAt, Fhu.setSym_freqAt, Fhu.setSym_symAt,
    Fhu.setFreq_freqAt, Fhu.setFreq_symAt, Fhu.setFreq_sym, hl.freqLength, hl.symLength]
  by_cases hk : k = h.nc.toNat
  · simp [hk, hcap]
  · simp [hk, Ne.symm hk]

theorem Fhu.Linked.placeLeaf_node (hl : h.Linked p n) (hnc : h.nc.toNat = n) (hcap : n < p.cap) (s k : Nat) :
    (h.placeLeaf s).node k = if k = n then (1#64, entryOf s) else h.node k := by
  simp only [Fhu.node, Fhu.placeLeaf, Fhu.setTable_freqAt, Fhu.setTable_symAt, Fhu.setSym_freqAt, Fhu.setSym_symAt,
    Fhu.setFreq_freqAt, Fhu.setFreq_symAt, Fhu.setFreq_sym, hl.freqLength, hl.symLength, hnc]
  by_cases hk : k = n
  · simp [hk, hcap]
  · simp [hk, Ne.symm hk]

/-- The nodes below `n + 1` of a heap that agrees with `h` below `n`. -/
theorem Fhu.nodes_append {g : Fhu} {v : Word × Entry} (hg : ∀ k, g.node k = if k = n then v else h.node k) :
    (List.range (n + 1)).map g.node = (List.range n).map h.node ++ [v] := by
  rw [List.range_succ, List.map_append, List.map_singleton, hg n, if_pos rfl]
  congr 1
  refine List.map_congr_left fun k hk => ?_
  rw [hg k, if_neg (Nat.ne_of_lt (List.mem_range.1 hk))]

/-! ## The merge -/

/-- The second `siftDown` of the merge never moves: its node has no live child (40_heap.md R117 (g)). -/
theorem Fhu.siftDown_last {c : Nat} (hc : 2 ≤ c) (hnc : h.nc.toNat = c + 1) : h.siftDown (c - 1) = (c - 1, h) := by
  refine Fhu.siftDown_of_le fun x hx hlt hpar => ?_
  unfold parentIx at hpar
  omega

/-- The merge keeps the nodes and appends one. -/
theorem Fhu.Linked.merge_perm (hl : h.Linked p h.nc.toNat) (hcap : h.nc.toNat < p.cap) (htwo : 2 ≤ h.nc.toNat) :
    h.merge.nodes.Perm ((h.freqAt (h.nc.toNat - 2) + h.freqAt (h.nc.toNat - 1), internal) :: h.nodes) := by
  obtain ⟨hgrown, hnc⟩ := hl.grown hcap
  obtain ⟨-, hdown⟩ := hgrown.siftDown (ix := h.nc.toNat - 2) (by omega) (by omega)
  have hlast := Fhu.siftDown_last htwo (h := (h.grown.siftDown (h.nc.toNat - 2)).2) (by rw [hdown.nc, hnc])
  obtain ⟨-, -, hlen⟩ := hl.merge rfl hcap htwo
  change ((List.range h.merge.nc.toNat).map h.merge.node).Perm (_ :: (List.range h.nc.toNat).map h.node)
  rw [hlen, Fhu.merge_eq, hlast]
  calc (List.range (h.nc.toNat + 1)).map _
      _ |>.Perm ((List.range (h.nc.toNat + 1)).map (h.grown.siftDown (h.nc.toNat - 2)).2.node) :=
        hdown.linked.siftUp_perm (by omega)
      _ |>.Perm ((List.range (h.nc.toNat + 1)).map h.grown.node) := hgrown.siftDown_perm (by omega) (by omega)
      _ |>.Perm _ := by
        rw [Fhu.nodes_append (hl.grown_node hcap)]
        exact List.perm_append_singleton _ _

/-- Of three nodes of which the last exceeds the root and the other does not, `siftDown` of the root and `siftUp` of the last
make the same swap, after which the last stays. -/
theorem Fhu.Linked.sift_three {g : Fhu} (hl : g.Linked p 3) (hnc : g.nc.toNat = 3) (hle : g.freqAt 1 ≤ g.freqAt 0)
    (hlt : g.freqAt 0 < g.freqAt 2) :
    g.siftDown 0 = (2, g.swap 0 2) ∧ g.siftUp 2 = (0, g.swap 0 2) ∧ (g.swap 0 2).siftUp 2 = (2, g.swap 0 2) := by
  have hswap := hl.swap (a := 0) (b := 2) (by decide) (by decide) (by decide)
  have hnodes := hl.swapped (a := 0) (b := 2) (by decide) (by decide)
  refine ⟨?_, ?_, hswap.linked.siftUp_of_le (by decide) (.inr ?_)⟩
  · have hone : g.freqAt 1 < g.freqAt 2 := by bv_omega
    have hlarger : g.largerChild 0 = 2 := if_pos ⟨by rw [hnc]; decide, hone⟩
    simp [Fhu.siftDown, hnc, Fhu.siftDownLoop, leftIx, hlarger, hlt]
  · have hloop : Fhu.siftUpLoop 2 2 g = (0, g.swap 2 0) := by simp [Fhu.siftUpLoop, parentIx, hlt]
    simp only [Fhu.siftUp, hloop, ← hl.swap_comm (a := 0) (b := 2) (by decide) (by decide) (by decide),
      hswap.linked.fixEntry_eq (Nat.succ_pos 2)]
  · rw [Fhu.freqAt_of_node hnodes.right, show parentIx 2 = 0 from rfl, Fhu.freqAt_of_node hnodes.left]
    exact BitVec.le_of_lt hlt

/-- In a heap with `H` the merge is one `siftUp` of the appended node (40_heap.md R117 (g)): where the first `siftDown` moves
it, from index 2 to the root, `siftUp` would have made the same swap. -/
theorem Fhu.Linked.merge_eq_siftUp (hl : h.Linked p h.nc.toNat) (hcap : h.nc.toNat < p.cap) (htwo : 2 ≤ h.nc.toNat)
    (hthree : h.nc.toNat ≠ 3) (ho : h.OrderedTo h.nc.toNat) : h.merge = (h.grown.siftUp h.nc.toNat).2 := by
  obtain ⟨hgrown, hnc⟩ := hl.grown hcap
  have hfreq : ∀ k, k ≠ h.nc.toNat → h.grown.freqAt k = h.freqAt k := fun k hk =>
    Fhu.freqAt_of_node ((hl.grown_node hcap k).trans (if_neg hk))
  have hone : h.nc.toNat = 2 → h.grown.freqAt 1 ≤ h.grown.freqAt 0 := fun hc => by
    rw [hfreq 1 (by omega), hfreq 0 (by omega)]
    exact ho 1 (by decide) (by omega)
  rw [Fhu.merge_eq]
  generalize h.nc.toNat = c at *
  by_cases hmove : c = 2 ∧ h.grown.freqAt 0 < h.grown.freqAt 2
  · obtain ⟨rfl, hlt⟩ := hmove
    obtain ⟨hdown, hup, hstay⟩ := hgrown.sift_three hnc (hone rfl) hlt
    have hswap := hgrown.swap (a := 0) (b := 2) (by decide) (by decide) (by decide)
    rw [Nat.sub_self, hdown, Fhu.siftDown_last (by decide) (by rw [hswap.nc, hnc]), hstay, hup]
  · have hquiet : h.grown.siftDown (c - 2) = (c - 2, h.grown) := by
      refine Fhu.siftDown_of_le fun x hx hlt hpar => ?_
      obtain rfl : c = 2 := by unfold parentIx at hpar; omega
      obtain rfl | rfl : x = 1 ∨ x = 2 := by omega
      · exact hone rfl
      · exact BitVec.not_lt.1 fun hlt => hmove ⟨rfl, hlt⟩
    rw [hquiet, Fhu.siftDown_last htwo hnc]

/-- The merge keeps `H` (40_heap.md R117 (e)). -/
theorem Fhu.Linked.merge_ordered (hl : h.Linked p h.nc.toNat) (hcap : h.nc.toNat < p.cap) (htwo : 2 ≤ h.nc.toNat)
    (hthree : h.nc.toNat ≠ 3) (ho : h.OrderedTo h.nc.toNat) : h.merge.OrderedTo (h.nc.toNat + 1) := by
  rw [hl.merge_eq_siftUp hcap htwo hthree ho]
  refine (hl.grown hcap).1.siftUp_ordered (Nat.lt_succ_self _) (ho.orderedBut_last fun k hk => ?_)
  exact Fhu.freqAt_of_node ((hl.grown_node hcap k).trans (if_neg (Nat.ne_of_lt hk)))

/-! ## HEAP.ADD -/

theorem Fhu.incNc_swap (h : Fhu) (a b : Nat) : h.incNc.swap a b = (h.swap a b).incNc := by
  have table : h.incNc.swapTable a b = (h.swapTable a b).incNc := by
    unfold Fhu.swapTable
    dsimp only [Fhu.incNc_symAt, Fhu.incNc_tableAt]
    split_ifs <;> rfl
  unfold Fhu.swap
  rw [table]
  rfl

theorem Fhu.incNc_siftUpLoop (fuel : Nat) (h : Fhu) (i : Nat) :
    Fhu.siftUpLoop fuel i h.incNc = ((Fhu.siftUpLoop fuel i h).1, (Fhu.siftUpLoop fuel i h).2.incNc) := by
  induction fuel generalizing i h with
  | zero => rfl
  | succ fuel ih =>
    simp only [Fhu.siftUpLoop, Fhu.incNc_freqAt, Fhu.incNc_swap, ih]
    split <;> rfl

/-- `siftUp` does not read NC. -/
theorem Fhu.incNc_siftUp (h : Fhu) (i : Nat) : h.incNc.siftUp i = ((h.siftUp i).1, (h.siftUp i).2.incNc) := by
  have entry : ∀ (g : Fhu) (k : Nat), g.incNc.fixEntry k = (g.fixEntry k).incNc := by
    intro g k
    unfold Fhu.fixEntry
    rw [Fhu.incNc_symAt]
    split_ifs <;> rfl
  simp only [Fhu.siftUp, Fhu.incNc_siftUpLoop, entry]

/-- HEAP.ADD places the leaf after the merge, if any, and sifts it up. -/
theorem Fhu.add_eq (h : Fhu) (s : Nat) :
    h.add s = (((h.beforeLeaf.placeLeaf s).siftUp h.beforeLeaf.nc.toNat).1,
      ((h.beforeLeaf.placeLeaf s).siftUp h.beforeLeaf.nc.toNat).2.incNc) := by
  unfold Fhu.add Fhu.beforeLeaf
  split
  next => rfl
  next => exact Fhu.incNc_siftUp _ _

/-- The heap before the leaf is placed is linked, has room for the leaf, and has the old symbols. -/
theorem Fhu.Linked.beforeLeaf (hl : h.Linked p h.nc.toNat) (hcap : h.nc.toNat + h.need ≤ p.cap) :
    h.beforeLeaf.Linked p h.beforeLeaf.nc.toNat
      ∧ (∀ s, s < p.n → (h.beforeLeaf.tableAt s = absent ↔ h.tableAt s = absent))
      ∧ h.beforeLeaf.nc.toNat + 1 = h.nc.toNat + h.need := by
  unfold Fhu.beforeLeaf
  unfold Fhu.need at hcap ⊢
  split_ifs at hcap ⊢ with htwo
  · exact ⟨hl, fun _ _ => Iff.rfl, rfl⟩
  · obtain ⟨hm, htab, hnc⟩ := hl.merge rfl (by omega) (by omega)
    exact ⟨hnc.symm ▸ hm, htab, by omega⟩

theorem Fhu.Linked.beforeLeaf_ordered (hl : h.Linked p h.nc.toNat) (hcap : h.nc.toNat + h.need ≤ p.cap)
    (hthree : h.nc.toNat ≠ 3) (ho : h.OrderedTo h.nc.toNat) : h.beforeLeaf.OrderedTo h.beforeLeaf.nc.toNat := by
  unfold Fhu.beforeLeaf
  unfold Fhu.need at hcap
  split_ifs at hcap ⊢ with htwo
  · exact ho
  · obtain ⟨-, -, hnc⟩ := hl.merge rfl (by omega) (by omega)
    rw [hnc]
    exact hl.merge_ordered (by omega) (by omega) hthree ho

/-- The leaf of HEAP.ADD, placed but not sifted yet. -/
theorem Fhu.Linked.leafPlaced (hl : h.Linked p h.nc.toNat) (hcap : h.nc.toNat + h.need ≤ p.cap) {s : Nat} (hs : s < p.n)
    (habs : h.tableAt s = absent) : (h.beforeLeaf.placeLeaf s).Linked p (h.beforeLeaf.nc.toNat + 1) := by
  obtain ⟨hb, htab, hnc⟩ := hl.beforeLeaf hcap
  exact (hb.placeLeaf rfl (by omega) hs ((htab s hs).2 habs)).1

theorem Fhu.Linked.add_nc (hl : h.Linked p h.nc.toNat) (hcap : h.nc.toNat + h.need ≤ p.cap) {s : Nat} (hs : s < p.n)
    (habs : h.tableAt s = absent) : (h.add s).2.nc.toNat = h.beforeLeaf.nc.toNat + 1 := by
  obtain ⟨-, -, hadd⟩ := hl.add hcap hs habs
  obtain ⟨-, -, hbefore⟩ := hl.beforeLeaf hcap
  rw [hadd, hbefore]

theorem Fhu.incNc_orderedTo : h.incNc.OrderedTo n ↔ h.OrderedTo n := Iff.rfl

/-- HEAP.ADD keeps `H` (40_heap.md R117 (e)). -/
theorem Fhu.Linked.add_ordered (hl : h.Linked p h.nc.toNat) (hcap : h.nc.toNat + h.need ≤ p.cap)
    (hthree : h.nc.toNat ≠ 3) {s : Nat} (hs : s < p.n) (habs : h.tableAt s = absent) (ho : h.OrderedTo h.nc.toNat) :
    (h.add s).2.Ordered := by
  obtain ⟨hb, -, hnc⟩ := hl.beforeLeaf hcap
  have hbut : (h.beforeLeaf.placeLeaf s).OrderedBut (h.beforeLeaf.nc.toNat + 1) h.beforeLeaf.nc.toNat := by
    refine (hl.beforeLeaf_ordered hcap hthree ho).orderedBut_last fun k hk => ?_
    exact Fhu.freqAt_of_node ((hb.placeLeaf_node rfl (by omega) s k).trans (if_neg (Nat.ne_of_lt hk)))
  rw [Fhu.ordered_iff, hl.add_nc hcap hs habs, Fhu.add_eq, Fhu.incNc_orderedTo]
  exact (hl.leafPlaced hcap hs habs).siftUp_ordered (Nat.lt_succ_self _) hbut

end Append

/-! ## The ancestor recompute -/

section Recompute
variable {p : Params} {n a k fuel : Nat} {h : Fhu}

@[simp] theorem Fhu.recompute_symAt (fuel a : Nat) (h : Fhu) (k : Nat) :
    (Fhu.recompute fuel a h).symAt k = h.symAt k :=
  Fhu.recompute_induct (P := fun g => g.symAt k = h.symAt k) (fun _ _ _ hg => hg) fuel rfl

@[simp] theorem Fhu.recompute_nc (fuel a : Nat) (h : Fhu) : (Fhu.recompute fuel a h).nc = h.nc := by
  obtain ⟨-, -, -, hnc⟩ := h.recompute_sameShape fuel a
  exact hnc

/-- Only ancestors are recomputed. -/
theorem Fhu.recompute_freqAt_off (hk : k ∉ ancestors a) : (Fhu.recompute fuel a h).freqAt k = h.freqAt k := by
  induction fuel generalizing a h with
  | zero => rfl
  | succ fuel ih =>
    unfold Fhu.recompute
    split
    next hpos =>
      rw [ancestors_of_pos hpos] at hk
      obtain ⟨hne, hk⟩ := not_or.1 (List.mem_cons.not.1 hk)
      rw [ih hk, Fhu.setFreq_freqAt, if_neg (fun hc => hne hc.1.symm)]
    next => rfl

theorem Fhu.liveFreqAt_congr {g : Fhu} (hnc : g.nc = h.nc) (hk : g.freqAt k = h.freqAt k) :
    g.liveFreqAt k = h.liveFreqAt k := by
  rw [Fhu.liveFreqAt, Fhu.liveFreqAt, hnc, hk]

/-- Every ancestor ends as the sum of its array children (40_heap.md R112): the writes above it leave the three alone. -/
theorem Fhu.recompute_sum (hlen : a < h.freq.length) (hf : a ≤ fuel) (hk : k ∈ ancestors a) :
    (Fhu.recompute fuel a h).freqAt k
      = (Fhu.recompute fuel a h).liveFreqAt (leftIx k) + (Fhu.recompute fuel a h).liveFreqAt (rightIx k) := by
  induction fuel generalizing a h with
  | zero =>
    obtain rfl := Nat.le_zero.1 hf
    simp at hk
  | succ fuel ih =>
    have hpos : 0 < a := Nat.lt_of_le_of_lt (Nat.zero_le k) (lt_of_mem_ancestors hk)
    have hq := parentIx_lt hpos
    rw [ancestors_of_pos hpos] at hk
    rw [Fhu.recompute, if_pos hpos]
    set g := h.setFreq (parentIx a) (h.liveFreqAt (leftIx (parentIx a)) + h.liveFreqAt (rightIx (parentIx a))) with hg
    rcases List.mem_cons.1 hk with rfl | hk
    · have child : ∀ c, parentIx a < c → (Fhu.recompute fuel (parentIx a) g).liveFreqAt c = h.liveFreqAt c := by
        intro c hc
        have hoff : c ∉ ancestors (parentIx a) := fun hm => by have := lt_of_mem_ancestors hm; omega
        refine Fhu.liveFreqAt_congr (Fhu.recompute_nc _ _ _) ?_
        rw [Fhu.recompute_freqAt_off hoff, hg, Fhu.setFreq_freqAt, if_neg (by omega)]
      rw [child _ (by unfold leftIx; omega), child _ (by unfold rightIx; omega),
        Fhu.recompute_freqAt_off not_mem_ancestors_self, hg, Fhu.setFreq_freqAt, if_pos ⟨rfl, by omega⟩]
    · exact ih (by rw [hg, Fhu.setFreq_length]; omega) (by omega) hk

/-- A dead slot holds 0, which is what `FreqAt` gives for it (40_heap.md R106). -/
theorem Fhu.Linked.liveFreqAt_eq (hl : h.Linked p h.nc.toNat) (k : Nat) : h.liveFreqAt k = h.freqAt k := by
  unfold Fhu.liveFreqAt
  split
  next => rfl
  next hk => exact (hl.dead k (Nat.le_of_not_lt hk)).1.symm

theorem freq_le_add_left {x y : Word} (hxy : x.toNat + y.toNat < 2 ^ 64) : x ≤ x + y := by
  rw [BitVec.le_def, BitVec.toNat_add_of_lt hxy]
  exact Nat.le_add_right _ _

theorem freq_le_add_right {x y : Word} (hxy : x.toNat + y.toNat < 2 ^ 64) : y ≤ x + y := by
  rw [BitVec.le_def, BitVec.toNat_add_of_lt hxy]
  exact Nat.le_add_left _ _

/-- The sum of an ancestor's children is that of the path's node and its sibling. -/
theorem Fhu.Linked.children_sum (hl : h.Linked p h.nc.toNat) (hpos : 0 < a) :
    ∃ b, b ≤ 2 * a ∧ b ∉ a :: ancestors a ∧ (∀ c, 0 < c → parentIx c = parentIx a → c = a ∨ c = b)
      ∧ h.liveFreqAt (leftIx (parentIx a)) + h.liveFreqAt (rightIx (parentIx a)) = h.freqAt a + h.freqAt b := by
  obtain ⟨b, hbpos, hne, hpar, hsides⟩ := exists_sibling hpos
  refine ⟨b, by unfold parentIx at hpar; omega, sibling_not_mem_path hpos hbpos hne hpar, fun c hc hcpar => ?_, ?_⟩
  · have := (parentIx_eq_iff hc).1 hcpar
    omega
  · rw [hl.liveFreqAt_eq, hl.liveFreqAt_eq]
    rcases hsides with ⟨ha, hb⟩ | ⟨ha, hb⟩
    · rw [← ha, ← hb]
    · rw [← ha, ← hb, BitVec.add_comm]

/-- The recompute restores `H` while no sum wraps: below `2 ^ d` an index has at most `d` ancestors, each of which adds one
frequency below `2 ^ 58`, that of the sibling beside the path. -/
theorem Fhu.Linked.recompute_ordered {d : Nat} (hl : h.Linked p h.nc.toNat) (ha : a < h.nc.toNat) (hf : a ≤ fuel)
    (hd : a < 2 ^ d) (hroom : (h.freqAt a).toNat + d * 2 ^ 58 < 2 ^ 64)
    (hside : ∀ k, k ≤ 2 * a → k ∉ a :: ancestors a → (h.freqAt k).toNat < 2 ^ 58)
    (ho : ∀ c, 0 < c → c < h.nc.toNat → c ≠ a → h.freqAt c ≤ h.freqAt (parentIx c)) :
    (Fhu.recompute fuel a h).OrderedTo h.nc.toNat := by
  induction fuel generalizing a d h with
  | zero => exact fun c hc hcn => ho c hc hcn (by omega)
  | succ fuel ih =>
    unfold Fhu.recompute
    split
    next hpos =>
      obtain ⟨d, rfl⟩ : ∃ e, d = e + 1 := Nat.exists_eq_add_one.2 (Nat.pos_of_ne_zero fun h0 => by subst h0; omega)
      have hq := parentIx_lt hpos
      have hanc := ancestors_of_pos hpos
      have hlen : parentIx a < h.freq.length := by have := hl.bound; rw [hl.freqLength]; omega
      obtain ⟨b, hb2, hbpath, hchildren, hsum⟩ := hl.children_sum hpos
      rw [hsum]
      have hbsmall := hside b hb2 hbpath
      have hfits : (h.freqAt a).toNat + (h.freqAt b).toNat < 2 ^ 64 := by omega
      have hset := hl.setFreq (hq.trans ha) (h.freqAt a + h.freqAt b)
      have hnew : (h.setFreq (parentIx a) (h.freqAt a + h.freqAt b)).freqAt (parentIx a) = h.freqAt a + h.freqAt b := by
        rw [Fhu.setFreq_freqAt, if_pos ⟨rfl, hlen⟩]
      have hold : ∀ k, k ≠ parentIx a →
          (h.setFreq (parentIx a) (h.freqAt a + h.freqAt b)).freqAt k = h.freqAt k := by
        intro k hk
        rw [Fhu.setFreq_freqAt, if_neg (fun hc => hk hc.1.symm)]
      refine ih (h := h.setFreq (parentIx a) (h.freqAt a + h.freqAt b)) (d := d) hset.linked (hq.trans ha)
        (by omega) ?_ ?_ ?_ ?_
      · unfold parentIx
        omega
      · rw [hnew, BitVec.toNat_add_of_lt hfits]
        omega
      · intro k hk hkp
        have hka : k ≠ a := by unfold parentIx at hk; omega
        rw [hold k (List.ne_of_not_mem_cons hkp)]
        refine hside k (by omega) (List.not_mem_cons_of_ne_of_not_mem hka ?_)
        rw [hanc]
        exact hkp
      · intro c hc hcn hcq
        have hcp := parentIx_lt hc
        rw [hold c hcq]
        by_cases hpar : parentIx c = parentIx a
        · rw [hpar, hnew]
          rcases hchildren c hc hpar with rfl | rfl
          · exact freq_le_add_left hfits
          · exact freq_le_add_right hfits
        · rw [hold _ hpar]
          exact ho c hc hcn (fun he => hpar (by rw [he]))
    next hpos => exact fun c hc hcn => ho c hc hcn (by omega)

end Recompute

/-! ## HEAP.INC -/

/-- The heap with one node's frequency one higher, before HEAP.INC sifts it (40_heap.md R112). -/
def Fhu.raised (k : Nat) (h : Fhu) : Fhu := h.setFreq k (h.freqAt k + 1#64)

section Bump
variable {p : Params} {k : Nat} {h : Fhu}

theorem Fhu.Linked.raised (hl : h.Linked p h.nc.toNat) (hk : k < h.nc.toNat) : Fhu.Keeps p h.nc.toNat h (h.raised k) :=
  hl.setFreq hk _

theorem Fhu.Linked.raised_node (hl : h.Linked p h.nc.toNat) (hk : k < h.nc.toNat) (j : Nat) :
    (h.raised k).node j = if j = k then (h.freqAt k + 1#64, h.symAt k) else h.node j := by
  simp only [Fhu.node, Fhu.raised, Fhu.setFreq_freqAt, Fhu.setFreq_symAt, hl.freqLength]
  by_cases hj : j = k
  · simp [hj, hk.trans_le hl.bound]
  · simp [hj, Ne.symm hj]

theorem freq_le_succ {f : Word} (hmax : f ≠ 0xFFFFFFFFFFFFFFFF#64) : f ≤ f + 1#64 := by bv_omega

/-- A node raised in a heap with `H` may exceed its parent only. -/
theorem Fhu.Linked.raised_orderedBut (hl : h.Linked p h.nc.toNat) (hk : k < h.nc.toNat) (ho : h.OrderedTo h.nc.toNat)
    (hmax : h.freqAt k ≠ 0xFFFFFFFFFFFFFFFF#64) : (h.raised k).OrderedBut h.nc.toNat k := by
  have hself : (h.raised k).freqAt k = h.freqAt k + 1#64 :=
    Fhu.freqAt_of_node ((hl.raised_node hk k).trans (if_pos rfl))
  have hother : ∀ j, j ≠ k → (h.raised k).freqAt j = h.freqAt j := fun j hj =>
    Fhu.freqAt_of_node ((hl.raised_node hk j).trans (if_neg hj))
  constructor
  · intro c hc hcn hne
    rw [hother c hne]
    by_cases hpar : parentIx c = k
    · rw [hpar, hself]
      exact BitVec.le_trans (hpar ▸ ho c hc hcn) (freq_le_succ hmax)
    · rw [hother _ hpar]
      exact ho c hc hcn
  · intro c hc hcn hpar hpos
    have hpc := parentIx_lt hc
    have hpk := parentIx_lt hpos
    rw [hother c (by omega), hother _ (by omega)]
    exact BitVec.le_trans (hpar ▸ ho c hc hcn) (ho k hpos hk)

/-- With `H` before and no wrap the `siftDown` of HEAP.INC does not move the node (40_heap.md R112). -/
theorem Fhu.Linked.bump_eq (hl : h.Linked p h.nc.toNat) (hk : k < h.nc.toNat) (ho : h.OrderedTo h.nc.toNat)
    (hmax : h.freqAt k ≠ 0xFFFFFFFFFFFFFFFF#64) :
    h.bump k = (((h.raised k).siftUp k).1,
      Fhu.recompute ((h.raised k).siftUp k).1 ((h.raised k).siftUp k).1 ((h.raised k).siftUp k).2) := by
  have hdown : (h.raised k).siftDown k = (k, h.raised k) := by
    refine Fhu.siftDown_of_le fun c hc hcn hpar => ?_
    have := parentIx_lt hc
    have hedge := (hl.raised_orderedBut hk ho hmax).edge c hc hcn (by omega)
    rwa [hpar] at hedge
  unfold Fhu.bump
  dsimp only
  rw [← Fhu.raised, hdown]

/-- HEAP.INC keeps `H` far from the wrap (40_heap.md R117 (e)). -/
theorem Fhu.Linked.bump_ordered (hl : h.Linked p h.nc.toNat) (hk : k < h.nc.toNat) (ho : h.OrderedTo h.nc.toNat)
    (hfar : h.FarFromWrap) : (h.bump k).2.Ordered := by
  have hf := hfar k
  have hmax : h.freqAt k ≠ 0xFFFFFFFFFFFFFFFF#64 := fun he => by rw [he] at hf; exact absurd hf (by decide)
  have hraised := hl.raised hk
  have hclimb := hraised.linked.siftUp_climbed hk
  have hself : (h.raised k).freqAt k = h.freqAt k + 1#64 :=
    Fhu.freqAt_of_node ((hl.raised_node hk k).trans (if_pos rfl))
  have hother : ∀ j, j ≠ k → ((h.raised k).freqAt j).toNat < 2 ^ 58 := by
    intro j hj
    rw [Fhu.freqAt_of_node ((hl.raised_node hk j).trans (if_neg hj))]
    exact hfar j
  obtain ⟨hlt, hkeep⟩ := hraised.linked.siftUp hk
  have hnc : ((h.raised k).siftUp k).2.nc = h.nc := hkeep.nc.trans hraised.nc
  have hord := hraised.linked.siftUp_ordered hk (hl.raised_orderedBut hk ho hmax)
  rw [Fhu.ordered_iff, hl.bump_eq hk ho hmax, Fhu.recompute_nc]
  rw [← hnc] at hlt hord
  have hlink : ((h.raised k).siftUp k).2.Linked p ((h.raised k).siftUp k).2.nc.toNat := hnc ▸ hkeep.linked
  refine hlink.recompute_ordered (d := 31) hlt (le_refl _) (hlink.index_lt hlt) ?_ ?_ fun c hc hcn _ => hord c hc hcn
  · rw [(Fhu.node_eq_iff.1 hclimb.moved).1, hself, BitVec.toNat_add_of_lt (by simp; omega)]
    simp
    omega
  · intro j _ hj
    by_cases hpath : j ∈ k :: ancestors k
    · have hjpos : 0 < j := Nat.pos_of_ne_zero fun h0 => hj (h0 ▸ zero_mem_path _)
      have hparent := ancestors_subset hpath (parentIx_mem_ancestors hjpos)
      rw [(Fhu.node_eq_iff.1 (hclimb.passed j hpath hj)).1]
      exact hother _ (Nat.ne_of_lt (lt_of_mem_ancestors hparent))
    · rw [(Fhu.node_eq_iff.1 (hclimb.stays j (.inl hpath))).1]
      exact hother j (List.ne_of_not_mem_cons hpath)

end Bump

end Sys2Proof.Machine
end

section
/-! HEAP.ADD and HEAP.INC as commands: what they answer, what the debug check adds, and the statements about them. -/
namespace Sys2Proof.Machine

/-! ## `verify()` -/

section Verify
variable {p : Params} {h : Fhu}

theorem Fhu.childOk_iff (ix c : Nat) : h.childOk ix c = true ↔ (c < h.nc.toNat → h.freqAt c ≤ h.freqAt ix) := by
  rw [Fhu.childOk, Bool.or_eq_true, decide_eq_true_eq, decide_eq_true_eq, ← Nat.not_lt, imp_iff_not_or]

theorem Fhu.entryOk_iff (s : Nat) : h.entryOk s = true ↔ (h.tableAt s ≠ absent →
    0 ≤ (h.tableAt s).toInt ∧ (h.tableAt s).toInt < h.nc.toNat ∧ h.symAt (h.tableAt s).toNat = entryOf s) := by
  simp only [Fhu.entryOk, Bool.or_eq_true, Bool.and_eq_true, beq_iff_eq, decide_eq_true_eq, and_assoc, ne_eq,
    imp_iff_not_or, not_not]

theorem Fhu.leafOk_iff (ix : Nat) : h.leafOk ix = true ↔ (h.symAt ix ≠ internal →
    h.tableAt (h.symAt ix).toNat = entryOf ix) := by
  simp only [Fhu.leafOk, Bool.or_eq_true, beq_iff_eq, ne_eq, imp_iff_not_or, not_not]

/-- `verify()` decides `H` and `T` (40_heap.md R105): a live child has a live parent. -/
theorem Fhu.verify_iff : h.verify p = true ↔ h.Ordered ∧ h.TableCorrect p := by
  have order : (∀ ix, ix < h.nc.toNat → h.childOk ix (leftIx ix) = true ∧ h.childOk ix (rightIx ix) = true)
      ↔ h.Ordered := by
    simp only [Fhu.childOk_iff]
    constructor
    · intro hall ix c hchild hc
      have hix : ix < h.nc.toNat := by unfold leftIx rightIx at hchild; omega
      rcases hchild with rfl | rfl
      · exact (hall ix hix).1 hc
      · exact (hall ix hix).2 hc
    · exact fun ho ix _ => ⟨ho ix _ (.inl rfl), ho ix _ (.inr rfl)⟩
  simp only [Fhu.verify, Bool.and_eq_true, List.all_eq_true, List.mem_range, order, Fhu.entryOk_iff, Fhu.leafOk_iff,
    Fhu.TableCorrect, and_assoc]

end Verify

theorem symbolOk_iff (p : Params) (v : Word) : symbolOk p v = true ↔ v.toNat < p.n := decide_eq_true_iff

/-! ## The end of a command that mutates the heap -/

/-- The state a mutating command leaves: the new heap, RES0 the index, the debug check made, BUSY 0 (60_exceptions.md R232). -/
def State.mutated (i : Instr) (q : Nat × Fhu) (s : State) : State :=
  (debugCheck i ((s.setFhu q.2).setRes0 (zext64 q.1))).finish

section Mutated
variable {i : Instr} {q : Nat × Fhu} {s t : State}

/-- A raised fault records that cause or leaves the one recorded (60_exceptions.md R226). -/
theorem State.raiseFault_cause {c d : Cause} {w : CmdWord} (hcd : c ≠ d) (hs : s.faultCause ≠ d) :
    (s.raiseFault c w).faultCause ≠ d := by
  unfold State.raiseFault State.recordFault
  split
  · exact hcd
  · exact hs

@[simp] theorem State.mutated_fhu : (s.mutated i q).fhu = q.2 := by simp [State.mutated]
@[simp] theorem State.mutated_res0 : (s.mutated i q).res0 = zext64 q.1 := by simp [State.mutated]

theorem State.mutated_frame : s.mutated i q = { s with
    fhu := (s.mutated i q).fhu, res0 := (s.mutated i q).res0, faultCause := (s.mutated i q).faultCause
    faultWord := (s.mutated i q).faultWord, busy := false } := by
  unfold State.mutated
  rcases debugCheck_cases ((s.setFhu q.2).setRes0 (zext64 q.1)) i with he | ⟨-, -, he⟩
  · rw [he]
    rfl
  · rw [he]
    unfold State.recordFault
    split <;> rfl

theorem State.mutated_fault_kept (hok : s.param.debugVerify = false ∨ q.2.verify s.param = true) :
    (s.mutated i q).faultCause = s.faultCause ∧ (s.mutated i q).faultWord = s.faultWord := by
  unfold State.mutated
  rcases debugCheck_cases ((s.setFhu q.2).setRes0 (zext64 q.1)) i with he | ⟨hdebug, hfail, -⟩
  · rw [he]
    exact ⟨rfl, rfl⟩
  · rcases hok with hok | hok
    · exact absurd (hdebug.symm.trans hok) (by decide)
    · exact absurd (hfail.symm.trans hok) (by decide)

theorem State.mutated_fault_recorded (hclear : s.faultCause = .none) (hdebug : s.param.debugVerify = true)
    (hfail : q.2.verify s.param = false) :
    (s.mutated i q).faultCause = .invariantViolation ∧ (s.mutated i q).faultWord = encode i := by
  unfold State.mutated debugCheck
  rw [if_pos ⟨hdebug, hfail⟩, State.recordFault_of_clear (by exact hclear)]
  exact ⟨rfl, rfl⟩

/-- The debug check records no cause but its own. -/
theorem State.mutated_cause {d : Cause} (hd : .invariantViolation ≠ d) (hs : s.faultCause ≠ d) :
    (s.mutated i q).faultCause ≠ d := by
  unfold State.mutated
  rcases debugCheck_cases ((s.setFhu q.2).setRes0 (zext64 q.1)) i with he | ⟨-, -, he⟩
  · rw [he]
    exact hs
  · rw [he]
    exact State.raiseFault_cause hd hs

/-- What HEAP.ADD answers (40_heap.md R111). -/
theorem exec_heapAdd_of_absent (hs : s.arg0.toNat < s.param.n) (habs : s.fhu.tableAt s.arg0.toNat = absent)
    (hcap : s.fhu.nc.toNat + s.fhu.need ≤ s.param.cap) :
    exec .heapAdd s = .next (s.mutated .heapAdd (s.fhu.add s.arg0.toNat)) := by
  change execHeapAdd s = _
  rw [execHeapAdd, if_neg (by simp [(symbolOk_iff _ _).2 hs]), if_neg (not_not.2 habs), if_neg (Nat.not_lt.2 hcap)]
  rfl

/-- What HEAP.INC answers (40_heap.md R112). -/
theorem exec_heapInc_of_present (hs : s.arg0.toNat < s.param.n) (hne : s.fhu.tableAt s.arg0.toNat ≠ absent) :
    exec .heapInc s = .next (s.mutated .heapInc (s.fhu.bump (s.fhu.tableAt s.arg0.toNat).toNat)) := by
  change execHeapInc s = _
  rw [execHeapInc, if_neg (by simp [(symbolOk_iff _ _).2 hs]), if_neg hne]
  rfl

/-- How HEAP.ADD ends: a refused operand, a full heap, or the leaf added. -/
theorem exec_heapAdd_cases (h : exec .heapAdd s = .next t) :
    (∃ c, (c = .symbolRange ∨ c = .symbolDuplicate) ∧ t = s.raiseFault c (encode .heapAdd))
      ∨ (s.param.cap < s.fhu.nc.toNat + s.fhu.need ∧ t = s.raiseFault .heapFull (encode .heapAdd))
      ∨ ((s.arg0.toNat < s.param.n ∧ s.fhu.tableAt s.arg0.toNat = absent ∧ s.fhu.nc.toNat + s.fhu.need ≤ s.param.cap)
          ∧ t = s.mutated .heapAdd (s.fhu.add s.arg0.toNat)) := by
  replace h : execHeapAdd s = .next t := h
  unfold execHeapAdd at h
  split at h
  next => exact .inl ⟨_, .inl rfl, raise_next h⟩
  next hs =>
    split at h
    next => exact .inl ⟨_, .inr rfl, raise_next h⟩
    next ht =>
      split at h
      next hc => exact .inr (.inl ⟨hc, raise_next h⟩)
      next hc =>
        have hs' := (symbolOk_iff _ _).1 (Bool.not_eq_false _ ▸ hs)
        exact .inr (.inr ⟨⟨hs', not_not.1 ht, Nat.le_of_not_lt hc⟩, complete_next h⟩)

/-- How HEAP.INC ends: a refused operand, or the symbol's node raised. -/
theorem exec_heapInc_cases (h : exec .heapInc s = .next t) :
    (∃ c, (c = .symbolRange ∨ c = .symbolAbsent) ∧ t = s.raiseFault c (encode .heapInc))
      ∨ ((s.arg0.toNat < s.param.n ∧ s.fhu.tableAt s.arg0.toNat ≠ absent)
          ∧ t = s.mutated .heapInc (s.fhu.bump (s.fhu.tableAt s.arg0.toNat).toNat)) := by
  replace h : execHeapInc s = .next t := h
  unfold execHeapInc at h
  split at h
  next => exact .inl ⟨_, .inl rfl, raise_next h⟩
  next hs =>
    split at h
    next => exact .inl ⟨_, .inr rfl, raise_next h⟩
    next ht =>
      have hs' := (symbolOk_iff _ _).1 (Bool.not_eq_false _ ▸ hs)
      exact .inr ⟨⟨hs', ht⟩, complete_next h⟩

end Mutated

/-! ## The count of nodes and `H` under the structural invariant -/

section Counts
variable {p : Params} {h : Fhu}

/-- `NC` is never 3 (40_heap.md R117 (a)). -/
theorem FhuOk.nc_ne_three (hok : FhuOk p h) : h.nc.toNat ≠ 3 := by
  rw [(fhuOk_iff.1 hok).2, nodesAfter]
  split <;> omega

/-- Two slots are always free (40_heap.md R117 (a)). -/
theorem FhuOk.nc_le (hok : FhuOk p h) : h.nc.toNat + 2 ≤ p.cap := by
  have hn : 2 ^ 2 ≤ p.n := by
    have hwf := hok.1
    simp only [Params.wf, Params.logNWf, Bool.and_eq_true, decide_eq_true_eq] at hwf
    exact Nat.pow_le_pow_right (by decide) hwf.1.1
  have := h.count_le p
  rw [(fhuOk_iff.1 hok).2, nodesAfter, Params.cap]
  split <;> omega

theorem Fhu.need_le (h : Fhu) : h.need ≤ 2 := by
  unfold Fhu.need
  split <;> decide

/-- The nodes of an add fit (40_heap.md R117 (b)). -/
theorem FhuOk.room (hok : FhuOk p h) : h.nc.toNat + h.need ≤ p.cap :=
  (Nat.add_le_add_left h.need_le _).trans hok.nc_le

theorem FhuOk.add_ordered (hok : FhuOk p h) (ho : h.Ordered) {s : Nat} (hs : s < p.n) (habs : h.tableAt s = absent) :
    (h.add s).2.Ordered :=
  (fhuOk_iff.1 hok).1.add_ordered hok.room hok.nc_ne_three hs habs ((Fhu.ordered_iff h).1 ho)

theorem FhuOk.bump_ordered (hok : FhuOk p h) (ho : h.Ordered) (hfar : h.FarFromWrap) {s : Nat} (hs : s < p.n)
    (hne : h.tableAt s ≠ absent) : (h.bump (h.tableAt s).toNat).2.Ordered := by
  obtain ⟨hl, -⟩ := fhuOk_iff.1 hok
  exact hl.bump_ordered (hl.entry s hs hne).1 ((Fhu.ordered_iff h).1 ho) hfar

theorem FhuOk.verify (hok : FhuOk p h) (ho : h.Ordered) : h.verify p = true := by
  obtain ⟨-, -, -, -, htable, -⟩ := hok
  exact Fhu.verify_iff.2 ⟨ho, htable⟩

end Counts

/-! ## `verify()` after every mutation -/

/-- A command started in `s` has left in `t` a heap with `H` that `verify()` accepts, and has recorded no InvariantViolation. -/
def State.EndsVerified (s t : State) : Prop :=
  t.fhu.Ordered ∧ t.fhu.verify s.param = true
    ∧ (s.faultCause ≠ .invariantViolation → t.faultCause ≠ .invariantViolation)

section Verified
variable {s : State}

/-- A refused operand leaves the heap as it was. -/
theorem State.endsVerified_of_refused (hok : FhuOk s.param s.fhu) (ho : s.fhu.Ordered) {c : Cause} (w : CmdWord)
    (hc : c ≠ .invariantViolation) : s.EndsVerified (s.raiseFault c w) := by
  refine ⟨?_, ?_, State.raiseFault_cause hc⟩
  all_goals rw [State.raiseFault_fhu]
  · exact ho
  · exact hok.verify ho

/-- A heap with `H` and the structural invariant passes the debug check. -/
theorem State.endsVerified_of_mutated {q : Nat × Fhu} (hok : FhuOk s.param q.2) (ho : q.2.Ordered) (i : Instr) :
    s.EndsVerified (s.mutated i q) := by
  have hverify := hok.verify ho
  refine ⟨?_, ?_, fun hs => ?_⟩
  · rwa [State.mutated_fhu]
  · rwa [State.mutated_fhu]
  · rwa [(State.mutated_fault_kept (.inr hverify)).1]

end Verified

/-- Settles O34: each of the two commands ends with an operand refused and the heap as it was, or with a heap that has `H` again
by one `siftUp` (and, for HEAP.INC, the recompute) and `T` by the structural invariant. -/
theorem verifyHoldsAfterEveryMutation : Obligations.VerifyHoldsAfterEveryMutation := by
  intro s t i hok ho hfar hi h
  rcases hi with rfl | rfl
  · rcases exec_heapAdd_cases h with ⟨c, rfl | rfl, rfl⟩ | ⟨-, rfl⟩ | ⟨⟨hs, habs, hcap⟩, rfl⟩
    · exact State.endsVerified_of_refused hok ho _ (by decide)
    · exact State.endsVerified_of_refused hok ho _ (by decide)
    · exact State.endsVerified_of_refused hok ho _ (by decide)
    · exact State.endsVerified_of_mutated (hok.add hs habs hcap) (hok.add_ordered ho hs habs) _
  · rcases exec_heapInc_cases h with ⟨c, rfl | rfl, rfl⟩ | ⟨⟨hs, hne⟩, rfl⟩
    · exact State.endsVerified_of_refused hok ho _ (by decide)
    · exact State.endsVerified_of_refused hok ho _ (by decide)
    · exact State.endsVerified_of_mutated (hok.bump hs hne) (hok.bump_ordered ho hfar hs hne) _

end Sys2Proof.Machine
end

section
/-! Where the nodes rest after HEAP.ADD and HEAP.INC (40_heap.md R102, R111, R112). -/
namespace Sys2Proof.Machine

/-! ## A climb as the claims put it -/

section Rises
variable {p : Params} {n k ix s : Nat} {h f g : Fhu} {v : Word} {y : Entry}

/-- A node that climbed in a heap `f`, which differs from `h` at its starting index only, has risen. -/
theorem Fhu.Climbed.rises (hc : f.Climbed k ix g) (hbase : ∀ j, j ≠ k → f.node j = h.node j) (hstart : f.node k = (v, y))
    (hstop : ix = 0 ∨ g.freqAt ix ≤ g.freqAt (parentIx ix)) : Rises h g k ix v y := by
  have hv : f.freqAt k = v := Fhu.freqAt_of_node hstart
  have above : ∀ a, a ∈ ancestors k → f.node a = h.node a := fun a ha => hbase a (Nat.ne_of_lt (lt_of_mem_ancestors ha))
  have hsub := ancestors_subset hc.onPath
  refine ⟨hc.onPath, ?_, fun a ha hna => ?_, Fhu.symAt_of_node (hc.moved.trans hstart), fun a ha hna => ?_, fun a ha => ?_⟩
  · refine (Nat.eq_zero_or_pos ix).imp_right fun hpos => ?_
    have hmem := parentIx_mem_ancestors hpos
    have hle := hstop.resolve_left (Nat.ne_of_gt hpos)
    rwa [Fhu.freqAt_of_node (hc.moved.trans hstart),
      Fhu.freqAt_of_node ((hc.stays _ (.inr hmem)).trans (above _ (hsub hmem)))] at hle
  · have hlt := hc.passed_lt a ha hna
    rwa [hv, Fhu.freqAt_of_node (above a ha)] at hlt
  · have hpos : 0 < a := Nat.pos_of_ne_zero fun h0 => hna (h0 ▸ zero_mem_path ix)
    have hmem := ancestors_subset ha (parentIx_mem_ancestors hpos)
    exact Fhu.node_eq_iff.1 ((hc.passed a ha hna).trans (above _ hmem))
  · exact (Fhu.node_eq_iff.1 ((hc.stays a (.inr ha)).trans (above a (hsub ha)))).2

/-- A climb does not speak of NC. -/
theorem Fhu.Climbed.incNc (hc : h.Climbed k ix g) : h.Climbed k ix g.incNc :=
  ⟨hc.onPath, hc.passed_lt, hc.moved, hc.passed, hc.stays⟩

theorem Rises.symAt_self (hr : Rises h g k ix v y) : g.symAt ix = y := by
  obtain ⟨-, -, -, hself, -⟩ := hr
  exact hself

/-- A rise does not speak of the frequencies above the node, nor of what is off its path. -/
theorem Rises.congr (hr : Rises h f k ix v y) (hsym : ∀ a, a ∈ k :: ancestors k → g.symAt a = f.symAt a)
    (hfreq : ∀ a, a ∈ k :: ancestors k → a ∉ ancestors ix → g.freqAt a = f.freqAt a) : Rises h g k ix v y := by
  obtain ⟨hon, hstop, hlt, hself, hpassed, habove⟩ := hr
  refine ⟨hon, hstop, hlt, (hsym ix hon).trans hself, fun a ha hna => ?_, fun a ha => ?_⟩
  · obtain ⟨hf, hs⟩ := hpassed a ha hna
    exact ⟨(hfreq a ha fun hm => hna (List.mem_cons_of_mem _ hm)).trans hf, (hsym a ha).trans hs⟩
  · exact (hsym a (List.mem_cons_of_mem _ (ancestors_subset hon ha))).trans (habove a ha)

/-- The table finds a live leaf. -/
theorem Fhu.Linked.tableAt_of_symAt (hl : h.Linked p n) (hix : ix < n) (hs : s < p.n) (hsym : h.symAt ix = entryOf s) :
    h.tableAt s = entryOf ix := by
  have hleaf := hl.leaf ix hix (hsym ▸ entryOf_ne_absent (hl.symbol_lt hs))
  rwa [hsym, entryOf_toNat (hl.symbol_lt hs)] at hleaf

end Rises

/-! ## HEAP.INC -/

section Inc
variable {p : Params} {h : Fhu} {k : Nat} (hl : h.Linked p h.nc.toNat) (hk : k < h.nc.toNat)
  (ho : h.OrderedTo h.nc.toNat) (hmax : h.freqAt k ≠ 0xFFFFFFFFFFFFFFFF#64)

include hl hk in
theorem Fhu.Linked.raised_climbed : (h.raised k).Climbed k ((h.raised k).siftUp k).1 ((h.raised k).siftUp k).2 :=
  (hl.raised hk).linked.siftUp_climbed hk

include hl hk in
theorem Fhu.Linked.raised_start : (h.raised k).node k = (h.freqAt k + 1#64, h.symAt k) :=
  (hl.raised_node hk k).trans (if_pos rfl)

include hl hk in
theorem Fhu.Linked.raised_other (j : Nat) (hj : j ≠ k) : (h.raised k).node j = h.node j :=
  (hl.raised_node hk j).trans (if_neg hj)

include hl hk ho hmax

/-- The node has risen: the recompute leaves the symbols and what is not above the node. -/
theorem Fhu.Linked.bump_rises : Rises h (h.bump k).2 k (h.bump k).1 (h.freqAt k + 1#64) (h.symAt k) := by
  rw [hl.bump_eq hk ho hmax]
  refine Rises.congr ((hl.raised_climbed hk).rises (hl.raised_other hk) (hl.raised_start hk) (Fhu.siftUp_stops _ _)) ?_ ?_
  · exact fun a _ => Fhu.recompute_symAt _ _ _ a
  · exact fun a _ hna => Fhu.recompute_freqAt_off hna

theorem Fhu.Linked.bump_freqAt : (h.bump k).2.freqAt (h.bump k).1 = h.freqAt k + 1#64 := by
  rw [hl.bump_eq hk ho hmax, Fhu.recompute_freqAt_off not_mem_ancestors_self]
  exact Fhu.freqAt_of_node ((hl.raised_climbed hk).moved.trans (hl.raised_start hk))

theorem Fhu.Linked.bump_lt : (h.bump k).1 < h.nc.toNat := by
  rw [hl.bump_eq hk ho hmax]
  exact ((hl.raised hk).linked.siftUp hk).1

theorem Fhu.Linked.bump_sum {a : Nat} (ha : a ∈ ancestors (h.bump k).1) :
    (h.bump k).2.freqAt a = (h.bump k).2.liveFreqAt (leftIx a) + (h.bump k).2.liveFreqAt (rightIx a) := by
  rw [hl.bump_eq hk ho hmax] at ha ⊢
  obtain ⟨hlt, hkeep⟩ := (hl.raised hk).linked.siftUp hk
  refine Fhu.recompute_sum ?_ (le_refl _) ha
  rw [hkeep.linked.freqLength]
  exact hlt.trans_le hl.bound

theorem Fhu.Linked.bump_off {j : Nat} (hj : j ∉ k :: ancestors k) :
    (h.bump k).2.freqAt j = h.freqAt j ∧ (h.bump k).2.symAt j = h.symAt j := by
  have hclimb := hl.raised_climbed hk
  have hnode := (hclimb.stays j (.inl hj)).trans (hl.raised_other hk j (List.ne_of_not_mem_cons hj))
  rw [hl.bump_eq hk ho hmax, Fhu.recompute_symAt, Fhu.recompute_freqAt_off
    (fun hm => hj (List.mem_cons_of_mem _ (ancestors_subset hclimb.onPath hm)))]
  exact Fhu.node_eq_iff.1 hnode

end Inc

/-- Settles O27: with `H` the command is one `siftUp` of the raised node and the recompute of the indices above it. -/
theorem heapIncBumpsAndRecomputes : Obligations.HeapIncBumpsAndRecomputes := by
  rintro s k hok hord hs hne rfl hmax
  obtain ⟨hl, -⟩ := fhuOk_iff.1 hok
  obtain ⟨hk, hsym⟩ := hl.entry _ hs hne
  have ho := (Fhu.ordered_iff _).1 hord
  have hkeep := hl.bump (le_refl _) hk
  have hrises := hl.bump_rises hk ho hmax
  rw [hsym] at hrises
  refine ⟨_, _, exec_heapInc_of_present hs hne, ?_, ?_, State.mutated_res0, ?_, ?_, ?_, ?_, State.mutated_frame,
    fun hq => State.mutated_fault_kept (by rwa [State.mutated_fhu] at hq),
    fun hclear hdebug hfail => State.mutated_fault_recorded hclear hdebug (by rwa [State.mutated_fhu] at hfail)⟩
  all_goals rw [State.mutated_fhu]
  · exact hrises
  · exact hl.bump_freqAt hk ho hmax
  · exact hkeep.linked.tableAt_of_symAt (hl.bump_lt hk ho hmax) hs hrises.symAt_self
  · exact fun a ha => hl.bump_sum hk ho hmax ha
  · exact fun j hj => hl.bump_off hk ho hmax hj
  · exact hkeep.nc

/-! ## HEAP.ADD -/

section Add
variable {p : Params} {h : Fhu} {s : Nat}

/-- The nodes before the leaf is placed: the old ones and, from two live nodes on, the merged one. -/
theorem Fhu.Linked.beforeLeaf_perm (hl : h.Linked p h.nc.toNat) (hcap : h.nc.toNat + h.need ≤ p.cap) :
    h.beforeLeaf.nodes.Perm ((if h.nc.toNat < 2 then []
      else [(h.freqAt (h.nc.toNat - 2) + h.freqAt (h.nc.toNat - 1), internal)]) ++ h.nodes) := by
  unfold Fhu.beforeLeaf
  unfold Fhu.need at hcap
  split_ifs at hcap ⊢ with htwo
  · exact .refl _
  · exact hl.merge_perm (by omega) (by omega)

/-- No frequency is 0 before the leaf is placed if none was and the merged sum is not. -/
theorem Fhu.Linked.beforeLeaf_pos (hl : h.Linked p h.nc.toNat) (hcap : h.nc.toNat + h.need ≤ p.cap)
    (hpos : ∀ k, k < h.nc.toNat → h.freqAt k ≠ 0#64)
    (hsum : h.nc.toNat < 2 ∨ h.freqAt (h.nc.toNat - 2) + h.freqAt (h.nc.toNat - 1) ≠ 0#64) {k : Nat}
    (hk : k < h.beforeLeaf.nc.toNat) : h.beforeLeaf.freqAt k ≠ 0#64 := by
  have hmem : h.beforeLeaf.node k ∈ h.beforeLeaf.nodes := List.mem_map_of_mem (List.mem_range.2 hk)
  rcases List.mem_append.1 ((hl.beforeLeaf_perm hcap).mem_iff.1 hmem) with hm | hm
  · split_ifs at hm with htwo
    · simp at hm
    · rw [Fhu.freqAt_of_node (List.mem_singleton.1 hm)]
      exact hsum.resolve_left htwo
  · obtain ⟨j, hj, he⟩ := List.mem_map.1 hm
    rw [Fhu.freqAt_of_node he.symm]
    exact hpos j (List.mem_range.1 hj)

variable (hl : h.Linked p h.nc.toNat) (hcap : h.nc.toNat + h.need ≤ p.cap) (hs : s < p.n) (habs : h.tableAt s = absent)

include hl hcap in
theorem Fhu.Linked.leafPlaced_node (k : Nat) :
    (h.beforeLeaf.placeLeaf s).node k = if k = h.beforeLeaf.nc.toNat then (1#64, entryOf s) else h.beforeLeaf.node k := by
  obtain ⟨hb, -, hnc⟩ := hl.beforeLeaf hcap
  exact hb.placeLeaf_node rfl (by omega) s k

include hl hcap hs habs

theorem Fhu.Linked.add_climbed : (h.beforeLeaf.placeLeaf s).Climbed h.beforeLeaf.nc.toNat (h.add s).1 (h.add s).2 := by
  have hc := (hl.leafPlaced hcap hs habs).siftUp_climbed (Nat.lt_succ_self _)
  rw [Fhu.add_eq]
  exact hc.incNc

theorem Fhu.Linked.add_lt : (h.add s).1 < (h.add s).2.nc.toNat := by
  rw [hl.add_nc hcap hs habs, Fhu.add_eq]
  exact ((hl.leafPlaced hcap hs habs).siftUp (Nat.lt_succ_self _)).1

theorem Fhu.Linked.add_node : (h.add s).2.node (h.add s).1 = (1#64, entryOf s) :=
  (hl.add_climbed hcap hs habs).moved.trans ((hl.leafPlaced_node hcap _).trans (if_pos rfl))

theorem Fhu.Linked.add_perm : (h.add s).2.nodes.Perm ((1#64, entryOf s) :: (if h.nc.toNat < 2 then []
      else [(h.freqAt (h.nc.toNat - 2) + h.freqAt (h.nc.toNat - 1), internal)]) ++ h.nodes) := by
  have hup := (hl.leafPlaced hcap hs habs).siftUp_perm (Nat.lt_succ_self h.beforeLeaf.nc.toNat)
  change ((List.range (h.add s).2.nc.toNat).map (h.add s).2.node).Perm _
  rw [hl.add_nc hcap hs habs, Fhu.add_eq]
  refine hup.trans ?_
  rw [Fhu.nodes_append (hl.leafPlaced_node hcap)]
  exact (List.perm_append_singleton _ _).trans ((hl.beforeLeaf_perm hcap).cons _)

/-- Where no frequency is 0 the leaf exceeds no parent, and the add is its placing. -/
theorem Fhu.Linked.add_stays (hpos : ∀ k, k < h.beforeLeaf.nc.toNat → h.beforeLeaf.freqAt k ≠ 0#64) :
    (h.add s).1 = h.beforeLeaf.nc.toNat
      ∧ ∀ k, (h.add s).2.node k = (h.beforeLeaf.placeLeaf s).node k := by
  have hnode := fun k => hl.leafPlaced_node hcap (s := s) k
  have hstay := (hl.leafPlaced hcap hs habs).siftUp_of_le (Nat.lt_succ_self _) <| by
    refine (Nat.eq_zero_or_pos _).imp_right fun hnc => ?_
    have hlt := parentIx_lt hnc
    rw [Fhu.freqAt_of_node ((hnode _).trans (if_pos rfl)),
      Fhu.freqAt_of_node ((hnode _).trans (if_neg (Nat.ne_of_lt hlt)))]
    have := hpos _ hlt
    change 1#64 ≤ h.beforeLeaf.freqAt _
    bv_omega
  rw [Fhu.add_eq, hstay]
  exact ⟨rfl, fun _ => rfl⟩

end Add

section Merge
variable {p : Params} {h g : Fhu}

/-- In a heap with `H` the merged node has risen from the first dead slot, and no other node moved; the leaf after it does not
matter to this. -/
theorem Fhu.Linked.merge_rises (hl : h.Linked p h.nc.toNat) (hcap : h.nc.toNat < p.cap) (htwo : 2 ≤ h.nc.toNat)
    (hthree : h.nc.toNat ≠ 3) (ho : h.OrderedTo h.nc.toNat) {v : Word}
    (hv : v = h.freqAt (h.nc.toNat - 2) + h.freqAt (h.nc.toNat - 1))
    (hg : ∀ k, k ≠ h.nc.toNat + 1 → g.node k = h.merge.node k) :
    ∃ j, Rises h g h.nc.toNat j v internal ∧ g.freqAt j = v ∧ (∀ a, a ∈ ancestors j → g.freqAt a = h.freqAt a)
      ∧ ∀ k, k ∉ h.nc.toNat :: ancestors h.nc.toNat → k ≠ h.nc.toNat + 1 →
          g.freqAt k = h.freqAt k ∧ g.symAt k = h.symAt k := by
  have hclimb := (hl.grown hcap).1.siftUp_climbed (Nat.lt_succ_self _)
  have hstop := h.grown.siftUp_stops h.nc.toNat
  rw [← hl.merge_eq_siftUp hcap htwo hthree ho] at hclimb hstop
  have hstart : h.grown.node h.nc.toNat = (v, internal) := by rw [hl.grown_node hcap, if_pos rfl, hv]
  have hbase : ∀ k, k ≠ h.nc.toNat → h.grown.node k = h.node k := fun k hk => by rw [hl.grown_node hcap, if_neg hk]
  have onPath : ∀ a, a ∈ h.nc.toNat :: ancestors h.nc.toNat → g.node a = h.merge.node a := fun a ha =>
    hg a (Nat.ne_of_lt (Nat.lt_succ_of_le (le_of_mem_path ha)))
  refine ⟨_, (hclimb.rises hbase hstart hstop).congr ?_ ?_, ?_, ?_, ?_⟩
  · exact fun a ha => Fhu.symAt_of_node (onPath a ha)
  · exact fun a ha _ => Fhu.freqAt_of_node (onPath a ha)
  · exact Fhu.freqAt_of_node ((onPath _ hclimb.onPath).trans (hclimb.moved.trans hstart))
  · intro a ha
    have hmem := ancestors_subset hclimb.onPath ha
    exact Fhu.freqAt_of_node ((onPath a (List.mem_cons_of_mem _ hmem)).trans
      ((hclimb.stays a (.inr ha)).trans (hbase a (Nat.ne_of_lt (lt_of_mem_ancestors hmem)))))
  · intro k hk hlast
    exact Fhu.node_eq_iff.1 ((hg k hlast).trans
      ((hclimb.stays k (.inl hk)).trans (hbase k (List.ne_of_not_mem_cons hk))))

end Merge

/-- Settles O26: the merge, if any, then the leaf placed and sifted; with no frequency 0 the leaf stays, and with `H` the merge
is one climb of the merged node. -/
theorem heapAddAppendsMergeAndLeaf : Obligations.HeapAddAppendsMergeAndLeaf := by
  rintro s c sum hok hs habs rfl rfl
  obtain ⟨hl, -⟩ := fhuOk_iff.1 hok
  have hcap := hok.room
  have hnode := hl.add_node hcap hs habs
  have hlt := hl.add_lt hcap hs habs
  obtain ⟨hadd, -, hnc⟩ := hl.add hcap hs habs
  have hsym := Fhu.symAt_of_node hnode
  refine ⟨_, _, exec_heapAdd_of_absent hs habs hcap, ?_, State.mutated_res0, ?_, ?_, ?_, ?_, ?_, ?_, State.mutated_frame,
    fun hq => State.mutated_fault_kept (by rwa [State.mutated_fhu] at hq),
    fun hclear hdebug hfail => State.mutated_fault_recorded hclear hdebug (by rwa [State.mutated_fhu] at hfail)⟩
  all_goals rw [State.mutated_fhu]
  · exact hlt
  · exact hadd.tableAt_of_symAt (hnc ▸ hlt) hs hsym
  · exact hsym
  · exact Fhu.freqAt_of_node hnode
  · exact hnc
  · exact hl.add_perm hcap hs habs
  · intro hpos hsum
    obtain ⟨hix, hstay⟩ := hl.add_stays hcap hs habs fun k => hl.beforeLeaf_pos hcap hpos hsum
    have hbefore : ∀ k, k ≠ s.fhu.beforeLeaf.nc.toNat →
        (s.fhu.add s.arg0.toNat).2.node k = s.fhu.beforeLeaf.node k := fun k hk =>
      (hstay k).trans ((hl.leafPlaced_node hcap k).trans (if_neg hk))
    obtain ⟨-, -, hcount⟩ := hl.beforeLeaf hcap
    refine ⟨by omega, fun hc k hk => ?_, fun hc hord => ?_⟩
    · have heq : s.fhu.beforeLeaf = s.fhu := if_pos hc
      rw [heq] at hbefore
      exact Fhu.node_eq_iff.1 (hbefore k hk)
    · have heq : s.fhu.beforeLeaf = s.fhu.merge := if_neg (Nat.not_lt.2 hc)
      have hneed : s.fhu.need = 2 := if_neg (Nat.not_lt.2 hc)
      rw [heq] at hbefore hcount
      exact hl.merge_rises (by omega) hc hok.nc_ne_three ((Fhu.ordered_iff _).1 hord) rfl
        fun k hk => hbefore k (by omega)

end Sys2Proof.Machine
end

section
/-! The HEAP.* commands that read, HEAP.INIT, and what all seven leave alone (40_heap.md R104, R108, R110, R113 to R117). -/
namespace Sys2Proof.Machine

/-! ## The path walk (40_heap.md R104) -/

section Path
variable {fuel ix len k : Nat} {path : Word}

/-- The indices at a depth. -/
theorem descend_bounds (path : Word) (len : Nat) :
    2 ^ len ≤ descend path len + 1 ∧ descend path len + 1 < 2 ^ (len + 1) := by
  induction len with
  | zero => simp [descend]
  | succ len ih =>
    unfold descend leftIx rightIx
    split <;> omega

/-- The branch taken from the parent: right exactly where the index is a right child. -/
theorem branch_eq (hpos : 0 < ix) :
    (if ix = rightIx (parentIx ix) then rightIx (parentIx ix) else leftIx (parentIx ix)) = ix := by
  have := (parentIx_eq_iff hpos).1 rfl
  split <;> omega

/-- A branch pushed onto a path: it is the new bit 0. -/
theorem getLsbD_pushBranch (path : Word) (b : Prop) [Decidable b] (hk : k < 64) :
    (path <<< 1 ||| (if b then 1#64 else 0#64)).getLsbD k = if k = 0 then decide b else path.getLsbD (k - 1) := by
  have hbit : (if b then 1#64 else 0#64).getLsbD k = (decide (k = 0) && decide b) := by
    by_cases hb : b <;> simp [hb]
  rw [BitVec.getLsbD_or, BitVec.getLsbD_shiftLeft, hbit]
  cases k with
  | zero => simp
  | succ k => simp [hk]

/-- What the walk adds to a path: its last branches lead to the index, and the path so far stands above them. The depth of an
index of the heap is far below 64, so the shifts lose no bit. -/
theorem pathLoop_descends (hf : ix ≤ fuel) (hsmall : ix < 2 ^ 32) :
    ∃ d, (pathLoop fuel ix path len).2 = len + d ∧ descend (pathLoop fuel ix path len).1 d = ix
      ∧ ∀ k, d + k < 64 → (pathLoop fuel ix path len).1.getLsbD (d + k) = path.getLsbD k := by
  induction fuel generalizing ix path len with
  | zero =>
    obtain rfl := Nat.le_zero.1 hf
    exact ⟨0, rfl, rfl, fun k _ => by rw [Nat.zero_add]; rfl⟩
  | succ fuel ih =>
    rcases Nat.eq_zero_or_pos ix with rfl | hpos
    · exact ⟨0, rfl, rfl, fun k _ => by rw [Nat.zero_add]; rfl⟩
    · have hlt := parentIx_lt hpos
      rw [pathLoop, if_pos hpos]
      obtain ⟨d, hlen, hdescend, hbits⟩ := ih (ix := parentIx ix)
        (path := path <<< 1 ||| (if ix = rightIx (parentIx ix) then 1#64 else 0#64)) (len := len + 1) (by omega) (by omega)
      generalize pathLoop fuel (parentIx ix) _ _ = q at *
      have hd : d < 63 := by
        have hdepth := (descend_bounds q.1 d).1
        rw [hdescend] at hdepth
        exact (Nat.pow_lt_pow_iff_right (by decide : 1 < 2)).1 (by omega)
      have hbranch : q.1.getLsbD d = decide (ix = rightIx (parentIx ix)) := by
        rw [← Nat.add_zero d, hbits 0 (by omega), getLsbD_pushBranch _ _ (by decide), if_pos rfl]
      refine ⟨d + 1, by omega, ?_, fun k hk => ?_⟩
      · rw [descend, hdescend, hbranch]
        simpa only [decide_eq_true_eq] using branch_eq hpos
      · rw [Nat.add_assoc, hbits (1 + k) (by omega), getLsbD_pushBranch _ _ (by omega), if_neg (by omega),
          Nat.add_sub_cancel_left]

/-- `pathIndex` (40_heap.md R104): the branches from the root to the index, in as many bits as the index is deep. -/
theorem pathIndex_descends (hsmall : ix < 2 ^ 32) :
    descend (pathIndex ix).1 (pathIndex ix).2 = ix ∧ (pathIndex ix).1.toNat < 2 ^ (pathIndex ix).2 := by
  obtain ⟨d, hlen, hdescend, hbits⟩ := pathLoop_descends (path := 0#64) (len := 0) (le_refl ix) hsmall
  rw [← pathIndex] at hlen hdescend hbits
  rw [Nat.zero_add] at hlen
  rw [hlen]
  refine ⟨hdescend, Nat.lt_pow_two_of_testBit _ fun j hj => ?_⟩
  rw [BitVec.testBit_toNat]
  by_cases hj64 : j < 64
  · obtain ⟨k, rfl⟩ := Nat.exists_eq_add_of_le hj
    rw [hbits k hj64, BitVec.getLsbD_zero]
  · exact BitVec.getLsbD_of_ge _ _ (Nat.le_of_not_lt hj64)

end Path

section Commands
variable {s t : State}

theorem nodeOk_iff (p : Params) (v : Word) : nodeOk p v = true ↔ v.toNat < p.cap := decide_eq_true_iff

/-- HEAP.PATH of a present symbol (40_heap.md R113). -/
theorem exec_heapPath_of_present (hs : s.arg0.toNat < s.param.n) (hne : s.fhu.tableAt s.arg0.toNat ≠ absent) :
    exec .heapPath s = .next { s with
      res0 := zext64 (s.fhu.tableAt s.arg0.toNat).toNat, res1 := (pathIndex (s.fhu.tableAt s.arg0.toNat).toNat).1
      res2 := zext64 (pathIndex (s.fhu.tableAt s.arg0.toNat).toNat).2, busy := false } := by
  change execHeapPath s = _
  rw [execHeapPath, if_neg (by simp [(symbolOk_iff _ _).2 hs]), if_neg hne]
  rfl

/-- HEAP.PATH of an absent symbol (40_heap.md R113). -/
theorem exec_heapPath_of_absent (hs : s.arg0.toNat < s.param.n) (habs : s.fhu.tableAt s.arg0.toNat = absent) :
    exec .heapPath s = .next { s with res0 := 0xFFFFFFFFFFFFFFFF#64, res1 := 0#64, res2 := 0#64, busy := false } := by
  change execHeapPath s = _
  rw [execHeapPath, if_neg (by simp [(symbolOk_iff _ _).2 hs]), if_pos habs]
  rfl

/-- HEAP.VERIFY never faults (40_heap.md R114). -/
theorem exec_heapVerify (s : State) :
    exec .heapVerify s = .next { s with res0 := if s.fhu.verify s.param then 1#64 else 0#64, busy := false } := rfl

/-- HEAP.RDNODE of a node index (40_heap.md R115). -/
theorem exec_heapRdnode_of_ok (hk : s.arg0.toNat < s.param.cap) :
    exec .heapRdnode s = .next { s with
      res0 := s.fhu.freqAt s.arg0.toNat, res1 := (s.fhu.symAt s.arg0.toNat).signExtend 64
      res2 := if s.arg0.toNat < s.fhu.nc.toNat then 1#64 else 0#64, busy := false } := by
  change execHeapRdnode s = _
  rw [execHeapRdnode, if_neg (by simp [(nodeOk_iff _ _).2 hk])]
  rfl

/-- HEAP.RDTAB of a symbol id (40_heap.md R116). -/
theorem exec_heapRdtab_of_ok (hs : s.arg0.toNat < s.param.n) :
    exec .heapRdtab s = .next
      { s with res0 := (s.fhu.tableAt s.arg0.toNat).signExtend 64, busy := false } := by
  change execHeapRdtab s = _
  rw [execHeapRdtab, if_neg (by simp [(symbolOk_iff _ _).2 hs])]
  rfl

/-- A fault raised where none is recorded (60_exceptions.md R226). -/
theorem State.raiseFault_of_clear (hclear : s.faultCause = .none) (c : Cause) (w : CmdWord) :
    s.raiseFault c w = { s with faultCause := c, faultWord := w, busy := false } := by
  rw [State.raiseFault, State.recordFault_of_clear hclear]
  rfl

end Commands

/-- Settles O28, by the walk from the index to the root. -/
theorem heapPathLeadsToTheIndex : Obligations.HeapPathLeadsToTheIndex := by
  intro s hs hne
  have hsmall := (s.fhu.tableAt s.arg0.toNat).isLt
  obtain ⟨hdescend, hpath⟩ := pathIndex_descends hsmall
  obtain ⟨hlow, hhigh⟩ := descend_bounds (pathIndex (s.fhu.tableAt s.arg0.toNat).toNat).1
    (pathIndex (s.fhu.tableAt s.arg0.toNat).toNat).2
  rw [hdescend] at hlow hhigh
  have hres0 : zext64 (s.fhu.tableAt s.arg0.toNat).toNat = (s.fhu.tableAt s.arg0.toNat).setWidth 64 :=
    BitVec.ofNat_toNat 64 _
  refine ⟨_, _, ?_, hdescend, hpath, hlow, hhigh⟩
  rw [exec_heapPath_of_present hs hne, hres0, zext64]

/-- Settles O29. -/
theorem heapPathOfAbsentSymbol : Obligations.HeapPathOfAbsentSymbol :=
  fun _ hs habs => exec_heapPath_of_absent hs habs

/-- Settles O30: `verify()` decides the two invariants. -/
theorem heapVerifyDecidesTheInvariants : Obligations.HeapVerifyDecidesTheInvariants := by
  intro s
  rw [← Fhu.verify_iff, exec_heapVerify]
  exact ⟨fun hv => by rw [if_pos hv], fun hv => by rw [if_neg hv]⟩

/-- Settles O25. -/
theorem heapInitClearsTheHeap : Obligations.HeapInitClearsTheHeap := fun _ => rfl

/-- Settles O31: an index below CAP is in both arrays. -/
theorem heapRdnodeReadsOneNode : Obligations.HeapRdnodeReadsOneNode := by
  intro s f y
  refine ⟨fun hk hf hy => ?_, fun hk hclear => ?_⟩
  · have hfreq : s.fhu.freqAt s.arg0.toNat = f := by rw [Fhu.freqAt, List.getD_eq_getElem?_getD, hf, Option.getD_some]
    have hsym : s.fhu.symAt s.arg0.toNat = y := by rw [Fhu.symAt, List.getD_eq_getElem?_getD, hy, Option.getD_some]
    rw [exec_heapRdnode_of_ok hk, hfreq, hsym]
  · change execHeapRdnode s = _
    have hbad : nodeOk s.param s.arg0 = false := decide_eq_false (Nat.not_lt.2 hk)
    rw [execHeapRdnode, if_pos hbad, raise_eq, State.raiseFault_of_clear hclear]
    rfl

/-- Settles O32: a symbol below N is in the table. -/
theorem heapRdtabReadsOneEntry : Obligations.HeapRdtabReadsOneEntry := by
  intro s e
  refine ⟨fun hs he => ?_, fun hs hclear => ?_⟩
  · have htab : s.fhu.tableAt s.arg0.toNat = e := by rw [Fhu.tableAt, List.getD_eq_getElem?_getD, he, Option.getD_some]
    rw [exec_heapRdtab_of_ok hs, htab]
  · change execHeapRdtab s = _
    have hbad : symbolOk s.param s.arg0 = false := decide_eq_false (Nat.not_lt.2 hs)
    rw [execHeapRdtab, if_pos hbad, raise_eq, State.raiseFault_of_clear hclear]
    rfl

/-- Settles O33: of the ends of HEAP.ADD only the one with no room records HeapFull, and the counts leave room. -/
theorem heapFullIsUnreachable : Obligations.HeapFullIsUnreachable := by
  intro s t hok
  refine ⟨hok.nc_le, fun hclear h => ?_⟩
  have hnot : s.faultCause ≠ .heapFull := by rw [hclear]; decide
  rcases exec_heapAdd_cases h with ⟨c, rfl | rfl, rfl⟩ | ⟨hfull, -⟩ | ⟨-, rfl⟩
  · exact State.raiseFault_cause (by decide) hnot
  · exact State.raiseFault_cause (by decide) hnot
  · exact absurd hok.room (Nat.not_le.2 hfull)
  · exact State.mutated_cause (by decide) hnot

/-! ## What no HEAP.* command touches (40_heap.md R108) -/

/-- The session, its port and DMEM are the same. -/
def State.SameSession (s t : State) : Prop := t.chan = s.chan ∧ t.dmem = s.dmem

section Session
variable {s t u : State}

theorem State.sameSession_of_raise {c : Cause} {i : Instr} (h : raise c i s = .next t) : s.SameSession t := by
  rw [raise_next h]
  exact ⟨State.raiseFault_chan .., State.raiseFault_dmem ..⟩

theorem State.sameSession_of_complete (h : complete u = .next t) (hu : s.SameSession u) : s.SameSession t := by
  rw [complete_next h]
  exact hu

theorem State.mutated_sameSession (i : Instr) (q : Nat × Fhu) (s : State) : s.SameSession (s.mutated i q) := by
  rw [State.mutated_frame]
  exact ⟨rfl, rfl⟩

theorem exec_heapAdd_sameSession (h : exec .heapAdd s = .next t) : s.SameSession t := by
  rcases exec_heapAdd_cases h with ⟨c, -, rfl⟩ | ⟨-, rfl⟩ | ⟨-, rfl⟩
  · exact State.sameSession_of_raise rfl
  · exact State.sameSession_of_raise rfl
  · exact State.mutated_sameSession ..

theorem exec_heapInc_sameSession (h : exec .heapInc s = .next t) : s.SameSession t := by
  rcases exec_heapInc_cases h with ⟨c, -, rfl⟩ | ⟨-, rfl⟩
  · exact State.sameSession_of_raise rfl
  · exact State.mutated_sameSession ..

theorem exec_heapPath_sameSession (h : exec .heapPath s = .next t) : s.SameSession t := by
  replace h : execHeapPath s = .next t := h
  unfold execHeapPath at h
  split at h
  · exact State.sameSession_of_raise h
  · split at h
    · exact State.sameSession_of_complete h ⟨rfl, rfl⟩
    · exact State.sameSession_of_complete h ⟨rfl, rfl⟩

theorem exec_heapRdnode_sameSession (h : exec .heapRdnode s = .next t) : s.SameSession t := by
  replace h : execHeapRdnode s = .next t := h
  unfold execHeapRdnode at h
  split at h
  · exact State.sameSession_of_raise h
  · exact State.sameSession_of_complete h ⟨rfl, rfl⟩

theorem exec_heapRdtab_sameSession (h : exec .heapRdtab s = .next t) : s.SameSession t := by
  replace h : execHeapRdtab s = .next t := h
  unfold execHeapRdtab at h
  split at h
  · exact State.sameSession_of_raise h
  · exact State.sameSession_of_complete h ⟨rfl, rfl⟩

end Session

/-- Settles O17, from the ends of each of the seven commands. -/
theorem heapCommandsLeaveTheSession : Obligations.HeapCommandsLeaveTheSession := by
  intro i s t hi h
  simp only [List.mem_cons, List.not_mem_nil, or_false] at hi
  rcases hi with rfl | rfl | rfl | rfl | rfl | rfl | rfl
  · exact State.sameSession_of_complete h ⟨rfl, rfl⟩
  · exact exec_heapAdd_sameSession h
  · exact exec_heapInc_sameSession h
  · exact exec_heapPath_sameSession h
  · exact State.sameSession_of_complete h ⟨rfl, rfl⟩
  · exact exec_heapRdnode_sameSession h
  · exact exec_heapRdtab_sameSession h

end Sys2Proof.Machine
end

section
/-! The numbers on the wire: the value of a list of bits, the chunks of a number and its code (30_encoding.md R89). -/
namespace Sys2Proof.Machine

/-! ## The value of a list of bits -/

section Bits
variable {v : Word} {n : Nat}

@[simp] theorem lowBits_length (v : Word) (n : Nat) : (lowBits v n).length = n := by simp [lowBits]

theorem bitsValue_append (xs ys : List Bool) :
    bitsValue (xs ++ ys) = bitsValue xs + 2 ^ xs.length * bitsValue ys := by
  induction xs with
  | nil => simp [bitsValue]
  | cons x xs ih => rw [List.cons_append, bitsValue, bitsValue, ih, List.length_cons, pow_succ']; ring

theorem bitsValue_lt (xs : List Bool) : bitsValue xs < 2 ^ xs.length := by
  induction xs with
  | nil => exact Nat.one_pos
  | cons x xs ih =>
    rw [bitsValue, List.length_cons, pow_succ']
    have hx := Bool.toNat_le x
    omega

/-- The low bits of a value are its remainder (20_memory.md R65). -/
theorem bitsValue_lowBits (v : Word) (n : Nat) : bitsValue (lowBits v n) = v.toNat % 2 ^ n := by
  induction n with
  | zero => simp [lowBits, bitsValue, Nat.mod_one]
  | succ n ih =>
    have hbit : (v.getLsbD n).toNat = v.toNat / 2 ^ n % 2 := by
      rw [BitVec.getLsbD, Nat.testBit_eq_decide_div_mod_eq]
      rcases Nat.mod_two_eq_zero_or_one (v.toNat / 2 ^ n) with h | h <;> simp [h]
    rw [lowBits_succ, bitsValue_append, ih, lowBits_length, bitsValue, bitsValue, Nat.mul_zero, Nat.add_zero, hbit,
      Nat.mod_pow_succ]

theorem bitsValue_lowBits_of_lt (h : v.toNat < 2 ^ n) : bitsValue (lowBits v n) = v.toNat := by
  rw [bitsValue_lowBits, Nat.mod_eq_of_lt h]

/-- A value is put together from its low bits and a bit above them. -/
theorem or_bit_toNat (b : Bool) (hv : v.toNat < 2 ^ n) (hn : n < 64) :
    (v ||| (BitVec.ofBool b).setWidth 64 <<< n).toNat = v.toNat + b.toNat * 2 ^ n := by
  rw [BitVec.toNat_or, placed_toNat b hn, Nat.or_comm, Nat.mul_comm, ← Nat.two_pow_add_eq_or_of_lt hv, Nat.add_comm]

/-- A value is put together from its low bits and a chunk above them that fits (41_bitchannel.md R146). -/
theorem or_chunk_toNat {a : Word} (hv : v.toNat < 2 ^ n) (hfit : a.toNat * 2 ^ n < 2 ^ 64) :
    (v ||| a <<< n).toNat = v.toNat + a.toNat * 2 ^ n := by
  rw [BitVec.toNat_or, BitVec.toNat_shiftLeft, Nat.shiftLeft_eq, Nat.mod_eq_of_lt hfit, Nat.or_comm, Nat.mul_comm,
    ← Nat.two_pow_add_eq_or_of_lt hv, Nat.add_comm]

end Bits

/-! ## Chunks -/

section Chunks
variable {base : Nat} {as : List Word} {a b v : Word}

@[simp] theorem contChunks_nil (base : Nat) : contChunks base [] = [] := rfl

theorem contChunks_cons (base : Nat) (a : Word) (as : List Word) :
    contChunks base (a :: as) = lowBits a base ++ true :: contChunks base as := by
  simp [contChunks]

theorem contChunks_concat (base : Nat) (as : List Word) (a : Word) :
    contChunks base (as ++ [a]) = contChunks base as ++ (lowBits a base ++ [true]) := by
  simp [contChunks]

@[simp] theorem contChunks_length (base : Nat) (as : List Word) :
    (contChunks base as).length = as.length * (base + 1) := by
  induction as with
  | nil => simp
  | cons a as ih => rw [contChunks_cons, List.length_append, List.length_cons, ih, lowBits_length, List.length_cons]; ring

theorem chunksValue_append (base : Nat) (as bs : List Word) :
    chunksValue base (as ++ bs) = chunksValue base as + 2 ^ (as.length * base) * chunksValue base bs := by
  induction as with
  | nil => simp [chunksValue]
  | cons a as ih =>
    rw [List.cons_append, chunksValue, chunksValue, ih, List.length_cons, Nat.succ_mul, Nat.add_comm, pow_add]
    ring

theorem chunksValue_singleton (base : Nat) (a : Word) : chunksValue base [a] = a.toNat := rfl

theorem chunksValue_lt (h : ∀ a ∈ as, a.toNat < 2 ^ base) : chunksValue base as < 2 ^ (as.length * base) := by
  induction as with
  | nil => simp [chunksValue]
  | cons a as ih =>
    have hvalue := ih fun x hx => h x (List.mem_cons_of_mem _ hx)
    have ha := h a List.mem_cons_self
    rw [chunksValue, List.length_cons, Nat.succ_mul, Nat.add_comm, Nat.add_comm (as.length * base), pow_add]
    calc 2 ^ base * chunksValue base as + a.toNat
        < 2 ^ base * (chunksValue base as + 1) := by rw [Nat.mul_succ]; omega
      _ ≤ 2 ^ base * 2 ^ (as.length * base) := Nat.mul_le_mul_left _ hvalue

/-- The first chunks of a number that fits fit. -/
theorem ChunksFit.of_prefix {bs : List Word} (h : ChunksFit base bs) (hp : as <+: bs) : ChunksFit base as := by
  obtain ⟨more, rfl⟩ := hp
  obtain ⟨hchunk, hvalue⟩ := h
  refine ⟨fun a ha => hchunk a (List.mem_append_left _ ha), ?_⟩
  rw [chunksValue_append] at hvalue
  omega

theorem ChunksFit.init {bs : List Word} (h : ChunksFit base (as ++ bs)) : ChunksFit base as :=
  h.of_prefix (List.prefix_append as bs)

/-- The last chunk lands below bit 64. -/
theorem ChunksFit.last_fits (h : ChunksFit base (as ++ [a])) : a.toNat * 2 ^ (as.length * base) < 2 ^ 64 := by
  have hvalue := h.2
  rw [chunksValue_append, chunksValue_singleton, Nat.mul_comm] at hvalue
  omega

theorem ChunksFit.last_lt (h : ChunksFit base (as ++ [a])) : a.toNat < 2 ^ base := h.1 a (by simp)

/-- The low chunk of a value. -/
def lowChunk (base : Nat) (v : Word) : Word := BitVec.ofNat 64 (v.toNat % 2 ^ base)

theorem lowChunk_toNat (base : Nat) (v : Word) : (lowChunk base v).toNat = v.toNat % 2 ^ base := by
  rw [lowChunk, BitVec.toNat_ofNat]
  exact Nat.mod_eq_of_lt (Nat.lt_of_le_of_lt (Nat.mod_le _ _) v.isLt)

theorem lowChunk_lt (base : Nat) (v : Word) : (lowChunk base v).toNat < 2 ^ base := by
  rw [lowChunk_toNat]; exact Nat.mod_lt _ (Nat.two_pow_pos base)

theorem lowBits_lowChunk (base : Nat) (v : Word) : lowBits (lowChunk base v) base = lowBits v base := by
  refine List.map_congr_left fun j hj => ?_
  rw [BitVec.getLsbD, lowChunk_toNat, Nat.testBit_mod_two_pow]
  simp [List.mem_range.1 hj, BitVec.getLsbD]

theorem ushiftRight_toNat (base : Nat) (v : Word) : (v >>> base).toNat = v.toNat / 2 ^ base := by
  rw [BitVec.toNat_ushiftRight, Nat.shiftRight_eq_div_pow]

/-- The code of a number is its chunks, the last with continuation 0, and no more of them than its value needs
(30_encoding.md R88, R89). -/
structure NumberCode (base : Nat) (v : Word) (as : List Word) (b : Word) (code : List Bool) : Prop where
  chunks : ∀ a ∈ as ++ [b], a.toNat < 2 ^ base
  value : chunksValue base (as ++ [b]) = v.toNat
  code : code = contChunks base as ++ lowBits b base ++ [false]
  shortest : as = [] ∨ 0 < b.toNat

/-- A number below `2 ^ base` has one chunk. -/
theorem numberCode_last (h : v >>> base = 0#64) : NumberCode base v [] (lowChunk base v) (lowBits v base ++ [false]) := by
  have hsmall : v.toNat / 2 ^ base = 0 := by rw [← ushiftRight_toNat, h]; rfl
  have hmod := Nat.div_add_mod v.toNat (2 ^ base)
  rw [hsmall, Nat.mul_zero, Nat.zero_add] at hmod
  exact ⟨by simpa using lowChunk_lt base v, (lowChunk_toNat base v).trans hmod,
    by rw [lowBits_lowChunk, contChunks_nil, List.nil_append], .inl rfl⟩

/-- A larger number has its low chunk first, then the chunks of what is left above it. -/
theorem NumberCode.cons {code : List Bool} (h : NumberCode base (v >>> base) as b code) (hrest : v >>> base ≠ 0#64) :
    NumberCode base v (lowChunk base v :: as) b (lowBits v base ++ true :: code) := by
  obtain ⟨hchunks, hvalue, rfl, hshort⟩ := h
  refine ⟨?_, ?_, ?_, .inr ?_⟩
  · rw [List.cons_append, List.forall_mem_cons]
    exact ⟨lowChunk_lt base v, hchunks⟩
  · rw [List.cons_append, chunksValue, hvalue, lowChunk_toNat, ushiftRight_toNat]
    exact Nat.mod_add_div _ _
  · rw [contChunks_cons, lowBits_lowChunk]
    simp only [List.append_assoc, List.cons_append]
  · rcases hshort with rfl | hpos
    · have hb : b.toNat = (v >>> base).toNat := hvalue
      rw [hb, Nat.pos_iff_ne_zero]
      exact fun h0 => hrest (BitVec.eq_of_toNat_eq h0)
    · exact hpos

/-- The rounds of the code of a number, enough of them for its value. -/
theorem vlRounds_code {fuel : Nat} (hbase : 1 ≤ base) (hfuel : v.toNat < 2 ^ (fuel + 1)) :
    ∃ as b, NumberCode base v as b (vlRounds base (fuel + 1) v) := by
  induction fuel generalizing v with
  | zero =>
    have hzero : v >>> base = 0#64 := by
      refine BitVec.eq_of_toNat_eq ?_
      rw [ushiftRight_toNat]
      exact Nat.div_eq_of_lt (Nat.lt_of_lt_of_le hfuel (Nat.pow_le_pow_right (by decide) (by omega)))
    exact ⟨[], _, by simpa [vlRounds, hzero] using numberCode_last hzero⟩
  | succ fuel ih =>
    by_cases hzero : v >>> base = 0#64
    · exact ⟨[], _, by simpa [vlRounds, hzero] using numberCode_last hzero⟩
    · have hrest : (v >>> base).toNat < 2 ^ (fuel + 1) := by
        have htwo : 2 ^ 1 ≤ 2 ^ base := Nat.pow_le_pow_right (by decide) hbase
        rw [ushiftRight_toNat]
        refine Nat.div_lt_of_lt_mul (Nat.lt_of_lt_of_le hfuel ?_)
        rw [pow_succ']
        exact Nat.mul_le_mul_right _ htwo
      obtain ⟨as, b, hcode⟩ := ih hrest
      refine ⟨lowChunk base v :: as, b, ?_⟩
      rw [vlRounds, if_neg hzero, decide_eq_true hzero]
      exact hcode.cons hzero

/-- The code of a number (30_encoding.md R89). -/
theorem exists_numberCode (hbase : 1 ≤ base) (v : Word) : ∃ as b, NumberCode base v as b (vlCode base v) :=
  vlRounds_code hbase v.isLt

section Code
variable {code : List Bool} (h : NumberCode base v as b code)
include h

theorem NumberCode.fit : ChunksFit base (as ++ [b]) := ⟨h.chunks, by rw [h.value]; exact v.isLt⟩

theorem NumberCode.length : code.length = (as.length + 1) * (base + 1) := by
  rw [h.code, List.length_append, List.length_append, contChunks_length, lowBits_length, List.length_singleton]
  ring

theorem NumberCode.lt : v.toNat < 2 ^ ((as.length + 1) * base) := by
  have hlt := chunksValue_lt h.chunks
  rwa [h.value, List.length_append, List.length_singleton] at hlt

/-- The value reaches into its last chunk, unless that is its only one. -/
theorem NumberCode.le : as = [] ∨ 2 ^ (as.length * base) ≤ v.toNat := by
  refine h.shortest.imp_right fun hpos => ?_
  have hle := Nat.le_mul_of_pos_right (2 ^ (as.length * base)) hpos
  rw [← h.value, chunksValue_append, chunksValue_singleton]
  omega

/-- The last chunk begins below bit 64. -/
theorem NumberCode.shift_lt : as.length * base < 64 := by
  rcases h.le with rfl | hle
  · simp
  · exact (Nat.pow_lt_pow_iff_right (by decide)).1 (Nat.lt_of_le_of_lt hle v.isLt)

/-- The code of a `u64` has at most 128 bits. -/
theorem NumberCode.length_le (hbase : 1 ≤ base) (hmax : base ≤ 64) : code.length ≤ 128 := by
  have hshift := h.shift_lt
  rw [h.length]
  obtain ⟨m, hm⟩ : ∃ m, base = m + 1 := ⟨base - 1, by omega⟩
  rcases Nat.eq_zero_or_pos as.length with h0 | hpos
  · rw [h0]; omega
  · obtain ⟨k, hk⟩ : ∃ k, as.length = k + 1 := ⟨as.length - 1, by omega⟩
    rw [hk, hm] at hshift ⊢
    nlinarith only [hshift, Nat.zero_le (k * m)]

end Code

end Chunks

end Sys2Proof.Machine
end

section
/-! What a read session takes: the bits of its stream one after another, and the words of the listed answers as they are needed. -/
namespace Sys2Proof.Machine

/-! ## Listed words -/

section Listed
variable {ws vs : List Word} {more rest : List ReadAnswer}

@[simp] theorem listedWords_append (ws : List Word) (more : List ReadAnswer) :
    listedWords (ws.map .word ++ more) = ws ++ listedWords more := by
  induction ws with
  | nil => rfl
  | cons w ws ih => rw [List.map_cons, List.cons_append, listedWords, ih, List.cons_append]

@[simp] theorem listedWords_fail (more : List ReadAnswer) : listedWords (.fail :: more) = [] := rfl

/-- With a word listed the answers begin with it. -/
theorem readAnswers_of_listedWords {answers : List ReadAnswer} {w : Word} (h : listedWords answers = w :: ws) :
    ∃ as, answers = .word w :: as ∧ listedWords as = ws := by
  cases answers with
  | nil => cases h
  | cons a as =>
    cases a with
    | word v =>
      rw [listedWords] at h
      injection h with hw hws
      exact ⟨as, by rw [hw], hws⟩
    | fail => cases h

/-- The answers after all listed words begin with the failure that ends them. -/
theorem listed_failure (h : vs.map ReadAnswer.word ++ rest = ws.map .word ++ .fail :: more) (hrest : listedWords rest = []) :
    vs = ws ∧ rest = .fail :: more := by
  have hwords : vs = ws := by
    have hlisted := congrArg listedWords h
    rw [listedWords_append, listedWords_append, hrest, listedWords_fail] at hlisted
    simpa using hlisted
  subst hwords
  exact ⟨rfl, List.append_cancel_left h⟩

theorem Port.nextRead_cons {p : Port} {a : ReadAnswer} (h : p.readAnswers = a :: more) : p.nextRead = a := by
  simp [Port.nextRead, h]

theorem Port.afterRead_readAnswers {p : Port} {a : ReadAnswer} (h : p.readAnswers = a :: more) :
    p.afterRead.readAnswers = more := by
  simp [Port.afterRead, h]

end Listed

/-! ## Words drawn -/

/-- Between `c` and `d` the listed words `ws` were read, the last of them into ACC (20_memory.md R64, 10_state.md R31). -/
structure Channel.Drew (c : Channel) (ws : List Word) (d : Channel) : Prop where
  answers : c.port.readAnswers = ws.map .word ++ d.port.readAnswers
  trace : d.port.trace = (ws.map (fun w => .asked (.word w))).reverse ++ c.port.trace
  words : d.words = c.words + BitVec.ofNat 64 ws.length
  acc : d.acc = ws.getLastD c.acc

/-- Between `c` and `d` the bits were taken from the read stream, without an error. -/
structure Channel.Took (c : Channel) (bits : List Bool) (d : Channel) : Prop where
  dir : d.dir = c.dir
  err : d.err = .clear
  cursor : d.cursor.toNat < 64
  stream : c.unread = bits ++ d.unread
  drew : ∃ ws, c.Drew ws d

section Took
variable {c d e : Channel} {bits more rest : List Bool} {b : Bool} {ws vs : List Word}

theorem Channel.Drew.refl (c : Channel) : c.Drew [] c := ⟨rfl, rfl, by simp, rfl⟩

theorem getLastD_append (ws vs : List Word) (w : Word) : (ws ++ vs).getLastD w = vs.getLastD (ws.getLastD w) := by
  induction ws generalizing w with
  | nil => rfl
  | cons v ws ih => rw [List.cons_append, List.getLastD_cons, List.getLastD_cons, ih]

theorem Channel.Drew.trans (h : c.Drew ws d) (h' : d.Drew vs e) : c.Drew (ws ++ vs) e := by
  refine ⟨?_, ?_, ?_, ?_⟩
  · rw [h.answers, h'.answers, List.map_append, List.append_assoc]
  · rw [h'.trace, h.trace, List.map_append, List.reverse_append, List.append_assoc]
  · rw [h'.words, h.words, List.length_append, BitVec.ofNat_add, BitVec.add_assoc]
  · rw [h'.acc, h.acc, getLastD_append]

theorem Channel.Took.refl (herr : c.err = .clear) (hcur : c.cursor.toNat < 64) : c.Took [] c :=
  ⟨rfl, herr, hcur, rfl, [], .refl c⟩

theorem Channel.Took.trans (h : c.Took bits d) (h' : d.Took more e) : c.Took (bits ++ more) e := by
  obtain ⟨ws, hd⟩ := h.drew
  obtain ⟨vs, hd'⟩ := h'.drew
  exact ⟨h'.dir.trans h.dir, h'.err, h'.cursor, by rw [h.stream, h'.stream, List.append_assoc], _, hd.trans hd'⟩

/-- What is left once the first bits of the stream are taken. -/
theorem Channel.Took.unread (h : c.Took bits d) (hs : c.unread = bits ++ rest) : d.unread = rest :=
  List.append_cancel_left (h.stream.symm.trans hs)

/-! ## One bit -/

theorem Channel.unread_of_zero (h : c.cursor = 0#7) :
    c.unread = (listedWords c.port.readAnswers).flatMap wordBits := by
  rw [Channel.unread, if_pos h, List.nil_append]

@[simp] theorem wordBits_length (w : Word) : (wordBits w).length = 64 := lowBits_length w 64

theorem drop_wordBits (w : Word) {k : Nat} (hk : k < 64) :
    (wordBits w).drop k = w.getLsbD k :: (wordBits w).drop (k + 1) := by
  rw [List.drop_eq_getElem_cons (by simpa using hk)]
  simp [wordBits, lowBits]

/-- The bits left in ACC and in the listed words after the one at CURSOR (41_bitchannel.md R144). -/
theorem unread_advanceRead (c : Channel) (h : c.cursor.toNat < 64) :
    (advanceRead c).unread
      = (wordBits c.acc).drop (c.cursor.toNat + 1) ++ (listedWords c.port.readAnswers).flatMap wordBits := by
  by_cases hlast : c.cursor.toNat = 63
  · have hzero : (advanceRead c).cursor = 0#7 := by simp [advanceRead, hlast]
    rw [Channel.unread_of_zero hzero, hlast, List.drop_eq_nil_of_le (by simp), List.nil_append]
    rfl
  · have hnat : (advanceRead c).cursor.toNat = c.cursor.toNat + 1 := by
      simp only [advanceRead, BitVec.toNat_ofNat]
      omega
    have hne : (advanceRead c).cursor ≠ 0#7 := by
      rw [ne_eq, cursor_eq_zero]; omega
    rw [Channel.unread, if_neg hne, hnat]
    rfl

/-- The stream begins with the bit at CURSOR, or with the first bit of the first listed word. -/
theorem unread_cons_cases (hcur : c.cursor.toNat < 64) (h : c.unread = b :: rest) :
    (c.cursor ≠ 0#7 ∧ c.acc.getLsbD c.cursor.toNat = b)
      ∨ (c.cursor = 0#7 ∧ ∃ w as, c.port.readAnswers = .word w :: as ∧ w.getLsbD 0 = b) := by
  by_cases hc : c.cursor = 0#7
  · rw [Channel.unread_of_zero hc] at h
    cases hw : listedWords c.port.readAnswers with
    | nil => rw [hw] at h; cases h
    | cons w ws =>
      obtain ⟨as, has, -⟩ := readAnswers_of_listedWords hw
      have hbits := drop_wordBits w (k := 0) (by decide)
      rw [List.drop_zero] at hbits
      rw [hw, List.flatMap_cons, hbits, List.cons_append] at h
      injection h with hb _
      exact .inr ⟨hc, w, as, has, hb⟩
  · rw [Channel.unread, if_neg hc, drop_wordBits c.acc hcur, List.cons_append] at h
    injection h with hb _
    exact .inl ⟨hc, hb⟩

/-- A fresh word stands in ACC, none of its bits read. -/
def fetched (w : Word) (c : Channel) : Channel := { (portRead c).2 with acc := w }

@[simp] theorem fetched_cursor (w : Word) (c : Channel) : (fetched w c).cursor = c.cursor := portRead_cursor c
@[simp] theorem fetched_acc (w : Word) (c : Channel) : (fetched w c).acc = w := rfl
@[simp] theorem fetched_dir (w : Word) (c : Channel) : (fetched w c).dir = c.dir := portRead_dir c
@[simp] theorem fetched_words (w : Word) (c : Channel) : (fetched w c).words = c.words + 1#64 := portRead_words c
@[simp] theorem fetched_port (w : Word) (c : Channel) : (fetched w c).port = c.port.afterRead := portRead_port c

theorem fetched_err {w : Word} (he : c.err = .clear) (ha : c.port.nextRead = .word w) : (fetched w c).err = .clear := by
  rcases portRead_cases he with ⟨-, -, -, h⟩ | ⟨hf, -, -⟩
  · exact h
  · rw [ha] at hf; cases hf

theorem fetched_drew {w : Word} {as : List ReadAnswer} (ha : c.port.readAnswers = .word w :: as) :
    c.Drew [w] (fetched w c) := by
  refine ⟨?_, ?_, by simp, rfl⟩
  · rw [fetched_port, Port.afterRead_readAnswers ha, ha]; rfl
  · rw [fetched_port, Port.afterRead_trace, Port.nextRead_cons ha]; rfl

/-- `readBit` takes the next bit of the stream, with a transaction exactly where CURSOR is 0 (41_bitchannel.md R144). -/
theorem readBit_takes (herr : c.err = .clear) (hcur : c.cursor.toNat < 64) (h : c.unread = b :: rest) :
    ∃ d, readBit c = (b, d) ∧ c.Took [b] d ∧ d.words = c.words + (if c.cursor.toNat = 0 then 1#64 else 0#64) := by
  have hzero := cursor_eq_zero c
  rcases unread_cons_cases hcur h with ⟨hne, hb⟩ | ⟨hc, w, as, ha, hb⟩
  · have hread : readBit c = (b, advanceRead c) := by
      rcases readBit_cases herr with ⟨-, hr⟩ | ⟨hc, -⟩ | ⟨hc, -⟩
      · rw [hr, hb]
      · exact absurd hc hne
      · exact absurd hc hne
    refine ⟨_, hread, ⟨rfl, herr, advanceRead_cursor_lt c, ?_, [], ⟨rfl, rfl, by simp [advanceRead], rfl⟩⟩, ?_⟩
    · rw [unread_advanceRead c hcur, Channel.unread, if_neg hne, drop_wordBits c.acc hcur, hb]
      rfl
    · rw [ne_eq, hzero] at hne
      simp [hne, advanceRead]
  · have hnext := Port.nextRead_cons ha
    have hread : readBit c = (b, advanceRead (fetched w c)) := by
      rcases readBit_cases herr with ⟨hne, -⟩ | ⟨-, v, hv, hr⟩ | ⟨-, hf, -⟩
      · exact absurd hc hne
      · rw [hnext] at hv
        injection hv with hv
        subst hv
        rw [hr, hb]
        rfl
      · rw [hnext] at hf; cases hf
    have hdrew := fetched_drew ha
    refine ⟨_, hread, ⟨fetched_dir w c, fetched_err herr hnext, advanceRead_cursor_lt _, ?_, [w],
      ⟨hdrew.answers, hdrew.trace, hdrew.words, hdrew.acc⟩⟩, ?_⟩
    · have hfirst := drop_wordBits w (k := 0) (by decide)
      rw [List.drop_zero, Nat.zero_add] at hfirst
      rw [unread_advanceRead _ (by simpa using hcur), Channel.unread_of_zero hc, ha, listedWords, List.flatMap_cons,
        fetched_port, Port.afterRead_readAnswers ha, fetched_acc, fetched_cursor, hzero.1 hc, hfirst, hb]
      rfl
    · rw [if_pos (hzero.1 hc)]
      exact fetched_words w c

/-! ## Several bits -/

/-- `readBits` takes the next bits of the stream and gives their value (41_bitchannel.md R145). -/
theorem readBits_takes {n : Nat} (herr : c.err = .clear) (hcur : c.cursor.toNat < 64) (hlen : bits.length = n)
    (hn : n ≤ 64) (h : c.unread = bits ++ rest) :
    ∃ d, (readBits n c).2 = d ∧ (readBits n c).1.toNat = bitsValue bits ∧ c.Took bits d := by
  induction bits using List.reverseRecOn generalizing n rest with
  | nil =>
    obtain rfl : 0 = n := hlen
    exact ⟨c, rfl, rfl, .refl herr hcur⟩
  | append_singleton bits b ih =>
    obtain rfl : bits.length + 1 = n := by simpa using hlen
    rw [List.append_assoc] at h
    obtain ⟨d, hd, hvalue, htook⟩ := ih rfl (by omega) h
    obtain ⟨e, hread, hbit, -⟩ := readBit_takes htook.err htook.cursor (htook.unread h)
    refine ⟨e, by rw [readBits, hd, hread], ?_, htook.trans hbit⟩
    have hlow := bitsValue_lt bits
    rw [← hvalue] at hlow
    rw [readBits, hd, hread, or_bit_toNat b hlow (by omega), hvalue, bitsValue_append]
    simp [bitsValue, Nat.mul_comm]

/-- A chunk that the stream begins with is read as it is. -/
theorem readBits_takes_lowBits {n : Nat} {a : Word} (herr : c.err = .clear) (hcur : c.cursor.toNat < 64)
    (ha : a.toNat < 2 ^ n) (hn : n ≤ 64) (h : c.unread = lowBits a n ++ rest) :
    ∃ d, readBits n c = (a, d) ∧ c.Took (lowBits a n) d := by
  obtain ⟨d, hd, hvalue, htook⟩ := readBits_takes herr hcur (lowBits_length a n) hn h
  rw [bitsValue_lowBits_of_lt ha] at hvalue
  exact ⟨d, Prod.ext (BitVec.eq_of_toNat_eq hvalue) hd, htook⟩

/-! ## The stream runs out -/

/-- Between `c` and `d` all the listed words `ws` were read and the read after them failed, which leaves `more` listed. -/
structure Channel.RanOut (c : Channel) (ws : List Word) (more : List ReadAnswer) (d : Channel) : Prop where
  dir : d.dir = c.dir
  err : d.err = .ioFailure
  cursor : d.cursor = 0#7
  acc : d.acc = ws.getLastD c.acc
  words : d.words = c.words + BitVec.ofNat 64 (ws.length + 1)
  answers : d.port.readAnswers = more
  trace : d.port.trace = .asked .fail :: ((ws.map (fun w => .asked (.word w))).reverse ++ c.port.trace)

theorem Channel.RanOut.err_ne {answers : List ReadAnswer} (h : c.RanOut ws answers d) : d.err ≠ .clear := by
  rw [h.err]; decide

/-- With nothing left to read, no unread bit stands in ACC and no word is listed. -/
theorem unread_eq_nil (hcur : c.cursor.toNat < 64) (h : c.unread = []) :
    c.cursor = 0#7 ∧ listedWords c.port.readAnswers = [] := by
  by_cases hc : c.cursor = 0#7
  · refine ⟨hc, ?_⟩
    rw [Channel.unread_of_zero hc] at h
    cases hw : listedWords c.port.readAnswers with
    | nil => rfl
    | cons w ws =>
      have hlen := congrArg List.length h
      rw [hw, List.flatMap_cons, List.length_append, wordBits_length] at hlen
      exact absurd hlen (by simp)
  · rw [Channel.unread, if_neg hc, drop_wordBits c.acc hcur] at h
    cases h

/-- Once the whole stream is taken and the host fails the next read, `readBit` gives 0 with IOFailure
(41_bitchannel.md R144). -/
theorem Channel.Took.readBit_runs_out {answers : List ReadAnswer} (h : c.Took bits d) (hs : c.unread = bits)
    (ha : c.port.readAnswers = ws.map .word ++ .fail :: answers) :
    ∃ e, readBit d = (false, e) ∧ c.RanOut ws answers e := by
  have hempty : d.unread = [] := h.unread (hs.trans (List.append_nil bits).symm)
  obtain ⟨hcur, hlisted⟩ := unread_eq_nil h.cursor hempty
  obtain ⟨vs, hdrew⟩ := h.drew
  obtain ⟨rfl, hleft⟩ := listed_failure (hdrew.answers.symm.trans ha) hlisted
  have hnext := Port.nextRead_cons hleft
  rcases readBit_cases h.err with ⟨hne, -⟩ | ⟨-, w, hw, -⟩ | ⟨-, -, hr⟩
  · exact absurd hcur hne
  · rw [hnext] at hw; cases hw
  · rcases portRead_cases h.err with ⟨w, hw, -⟩ | ⟨-, -, he⟩
    · rw [hnext] at hw; cases hw
    refine ⟨_, hr, ?_, he, ?_, ?_, ?_, ?_, ?_⟩
    · rw [portRead_dir, h.dir]
    · rw [portRead_cursor, hcur]
    · rw [portRead_acc, hdrew.acc]
    · rw [portRead_words, hdrew.words, BitVec.ofNat_add, BitVec.add_assoc]
    · rw [portRead_port, Port.afterRead_readAnswers hleft]
    · rw [portRead_port, Port.afterRead_trace, hnext, hdrew.trace]

/-- The same within the bits of `readBits` (41_bitchannel.md R145). -/
theorem Channel.Took.readBits_runs_out {answers : List ReadAnswer} {n : Nat} (h : c.Took bits d)
    (hs : c.unread = bits ++ more) (hlen : more.length < n) (hn : n ≤ 64)
    (ha : c.port.readAnswers = ws.map .word ++ .fail :: answers) :
    ∃ e, (readBits n d).2 = e ∧ c.RanOut ws answers e := by
  obtain ⟨k, rfl⟩ : ∃ k, n = more.length + 1 + k := ⟨n - (more.length + 1), by omega⟩
  obtain ⟨e, he, -, htook⟩ := readBits_takes h.err h.cursor (rest := []) (rfl : more.length = _) (by omega)
    (by rw [h.unread hs, List.append_nil])
  obtain ⟨f, hf, hout⟩ := (h.trans htook).readBit_runs_out hs ha
  refine ⟨f, ?_, hout⟩
  clear hlen hn
  induction k with
  | zero => rw [Nat.add_zero, readBits, he, hf]
  | succ k ih => rw [← Nat.add_assoc, readBits, ih, readBit_of_err hout.err_ne]

end Took

end Sys2Proof.Machine
end

section
/-! `readNumber` (41_bitchannel.md R146): one round for each way its chunk can be, then any number of chunks, and how the number ends. -/
namespace Sys2Proof.Machine

/-! ## One round -/

section Round
variable {base fuel sh : Nat} {a r : Word} {b : Bool} {c d e : Channel}

/-- Below shift 64 a chunk overflows exactly if its value lands at or above bit 64. -/
theorem chunkOverflows_iff (hsh : sh < 64) : chunkOverflows a sh = true ↔ 2 ^ 64 ≤ a.toNat * 2 ^ sh := by
  simp only [chunkOverflows, Bool.and_eq_true, Bool.or_eq_true, decide_eq_true_eq]
  refine ⟨fun ⟨_, h⟩ => h.resolve_left (by omega), fun h => ⟨?_, .inr h⟩⟩
  rintro rfl
  simp at h

theorem chunkOverflows_eq_false (hsh : sh < 64) (h : a.toNat * 2 ^ sh < 2 ^ 64) : chunkOverflows a sh = false := by
  rw [← Bool.not_eq_true, chunkOverflows_iff hsh]
  omega

/-- With an error set `readNumber` gives 0 and reads nothing. -/
theorem readNumberLoop_of_err (h : c.err ≠ .clear) (r : Word) : readNumberLoop base fuel sh r c = (0#64, c) := by
  cases fuel with
  | zero => rfl
  | succ fuel => simp [readNumberLoop, h]

theorem readNumber_of_err (h : c.err ≠ .clear) (base : Nat) : readNumber base c = (0#64, c) :=
  readNumberLoop_of_err h 0#64

/-- `readNumber` gives 0 unless it ends with ERR clear. -/
theorem readNumberLoop_zero_or_clear :
    (readNumberLoop base fuel sh r c).1 = 0#64 ∨ (readNumberLoop base fuel sh r c).2.err = .clear := by
  induction fuel generalizing sh r c with
  | zero => exact .inl rfl
  | succ fuel ih =>
    unfold readNumberLoop
    dsimp only
    split
    · exact .inl rfl
    split
    · exact .inl rfl
    split
    · exact .inl rfl
    split
    · exact .inl rfl
    next hclear =>
      split
      · exact .inr (not_not.1 hclear)
      split
      · exact .inl rfl
      · exact ih

/-- A chunk cut off by a failed read. -/
theorem readNumberLoop_chunk_failed (hc : c.err = .clear) (hd : (readBits base c).2 = d) (he : d.err ≠ .clear) (r : Word) :
    readNumberLoop base (fuel + 1) sh r c = (0#64, d) := by
  simp [readNumberLoop, hc, hd, he]

section Chunk
variable (hc : c.err = .clear) (hd : readBits base c = (a, d)) (hderr : d.err = .clear)
include hc hd hderr

theorem readNumberLoop_overflow (ho : chunkOverflows a sh = true) (r : Word) :
    readNumberLoop base (fuel + 1) sh r c = (0#64, d.setErr .invalidParameter) := by
  simp [readNumberLoop, hc, hd, hderr, ho]

variable (ho : chunkOverflows a sh = false) (he : readBit d = (b, e))
include ho he

theorem readNumberLoop_bit_failed (heerr : e.err ≠ .clear) (r : Word) :
    readNumberLoop base (fuel + 1) sh r c = (0#64, e) := by
  simp [readNumberLoop, hc, hd, hderr, ho, he, heerr]

theorem readNumberLoop_last (heerr : e.err = .clear) (hb : b = false) (r : Word) :
    readNumberLoop base (fuel + 1) sh r c = (r ||| a <<< sh, e) := by
  simp [readNumberLoop, hc, hd, hderr, ho, he, heerr, hb]

theorem readNumberLoop_excess (heerr : e.err = .clear) (hb : b = true) (hsh : 64 ≤ sh + base) (r : Word) :
    readNumberLoop base (fuel + 1) sh r c = (0#64, e.setErr .invalidParameter) := by
  simp [readNumberLoop, hc, hd, hderr, ho, he, heerr, hb, hsh]

theorem readNumberLoop_next (heerr : e.err = .clear) (hb : b = true) (hsh : sh + base < 64) (r : Word) :
    readNumberLoop base (fuel + 1) sh r c = readNumberLoop base fuel (sh + base) (r ||| a <<< sh) e := by
  simp [readNumberLoop, hc, hd, hderr, ho, he, heerr, hb, Nat.not_le.2 hsh]

end Chunk
end Round

/-! ## Chunks with continuation 1 -/

section Chunks
variable {base fuel sh : Nat} {a b r : Word} {as : List Word} {c d : Channel} {bits rest : List Bool}

/-- A chunk that the stream begins with, and its continuation bit. -/
theorem read_chunk {t : Bool} (herr : c.err = .clear) (hcur : c.cursor.toNat < 64) (ha : a.toNat < 2 ^ base)
    (hmax : base ≤ 64) (hs : c.unread = lowBits a base ++ t :: rest) :
    ∃ d e, readBits base c = (a, d) ∧ d.err = .clear ∧ readBit d = (t, e) ∧ c.Took (lowBits a base ++ [t]) e := by
  obtain ⟨d, hd, htook⟩ := readBits_takes_lowBits herr hcur ha hmax hs
  obtain ⟨e, he, hbit, -⟩ := readBit_takes htook.err htook.cursor (htook.unread hs)
  exact ⟨d, e, hd, htook.err, he, htook.trans hbit⟩

/-- Where `readNumber` stands after chunks with continuation 1: the loop goes on at a higher shift. -/
structure AfterChunks (base : Nat) (as : List Word) (c d : Channel) (r : Word) : Prop where
  took : c.Took (contChunks base as) d
  value : r.toNat = chunksValue base as
  loop : readNumber base c = readNumberLoop base (64 - as.length) (as.length * base) r d

theorem AfterChunks.refl (herr : c.err = .clear) (hcur : c.cursor.toNat < 64) : AfterChunks base [] c c 0#64 :=
  ⟨.refl herr hcur, rfl, by simp [readNumber]⟩

/-- While the shift is below 64 a round is left. -/
theorem rounds_left {n : Nat} (hbase : 1 ≤ base) (h : n * base < 64) : 64 - n = 63 - n + 1 := by
  have := Nat.le_mul_of_pos_right n hbase
  omega

/-- Any fitting chunks with continuation 1, below shift 64, are read one after another. -/
theorem read_contChunks (hbase : 1 ≤ base) (hmax : base ≤ 64) (herr : c.err = .clear) (hcur : c.cursor.toNat < 64)
    (hfit : ChunksFit base as) (hsh : as.length * base < 64) (hs : c.unread = contChunks base as ++ rest) :
    ∃ d r, AfterChunks base as c d r := by
  induction as using List.reverseRecOn generalizing rest with
  | nil => exact ⟨c, 0#64, .refl herr hcur⟩
  | append_singleton as a ih =>
    rw [List.length_append, List.length_singleton, Nat.succ_mul] at hsh
    rw [contChunks_concat, List.append_assoc] at hs
    obtain ⟨d, r, hafter⟩ := ih hfit.init (by omega) hs
    have hstream := hafter.took.unread hs
    rw [List.append_assoc] at hstream
    obtain ⟨d', e, hd, hderr, he, htook⟩ :=
      read_chunk hafter.took.err hafter.took.cursor hfit.last_lt hmax hstream
    have hr : r.toNat < 2 ^ (as.length * base) := by rw [hafter.value]; exact chunksValue_lt hfit.init.1
    refine ⟨e, r ||| a <<< (as.length * base), by rw [contChunks_concat]; exact hafter.took.trans htook, ?_, ?_⟩
    · rw [or_chunk_toNat hr hfit.last_fits, hafter.value, chunksValue_append, chunksValue_singleton, Nat.mul_comm]
    · rw [hafter.loop, rounds_left hbase (by omega), readNumberLoop_next hafter.took.err hd hderr
        (chunkOverflows_eq_false (by omega) hfit.last_fits) he htook.err rfl (by omega), List.length_append,
        List.length_singleton, Nat.succ_mul, Nat.sub_add_eq]
      congr 1
      omega

/-! ## How a number ends -/

/-- A last fitting chunk with continuation 0 ends the number with its value (41_bitchannel.md R146). -/
theorem readNumber_takes (hbase : 1 ≤ base) (hmax : base ≤ 64) (herr : c.err = .clear) (hcur : c.cursor.toNat < 64)
    (hfit : ChunksFit base (as ++ [b])) (hsh : as.length * base < 64)
    (hs : c.unread = contChunks base as ++ lowBits b base ++ false :: rest) :
    ∃ d, (readNumber base c).2 = d ∧ (readNumber base c).1.toNat = chunksValue base (as ++ [b])
      ∧ c.Took (contChunks base as ++ lowBits b base ++ [false]) d := by
  rw [List.append_assoc] at hs
  obtain ⟨d, r, hafter⟩ := read_contChunks hbase hmax herr hcur hfit.init hsh hs
  obtain ⟨d', e, hd, hderr, he, htook⟩ :=
    read_chunk hafter.took.err hafter.took.cursor hfit.last_lt hmax (hafter.took.unread hs)
  have hr : r.toNat < 2 ^ (as.length * base) := by rw [hafter.value]; exact chunksValue_lt hfit.init.1
  have hend : readNumber base c = (r ||| b <<< (as.length * base), e) := by
    rw [hafter.loop, rounds_left hbase hsh]
    exact readNumberLoop_last hafter.took.err hd hderr (chunkOverflows_eq_false hsh hfit.last_fits) he htook.err rfl r
  refine ⟨e, by rw [hend], ?_, by rw [List.append_assoc]; exact hafter.took.trans htook⟩
  rw [hend, or_chunk_toNat hr hfit.last_fits, hafter.value, chunksValue_append, chunksValue_singleton, Nat.mul_comm]

/-- The code of a number is read as the number (41_bitchannel.md R148). -/
theorem readNumber_takes_vlCode {v : Word} (hbase : 1 ≤ base) (hmax : base ≤ 64) (herr : c.err = .clear)
    (hcur : c.cursor.toNat < 64) (hs : c.unread = vlCode base v ++ rest) :
    ∃ d, readNumber base c = (v, d) ∧ c.Took (vlCode base v) d := by
  obtain ⟨as, b, hcode⟩ := exists_numberCode hbase v
  rw [hcode.code] at hs ⊢
  obtain ⟨d, hd, hvalue, htook⟩ := readNumber_takes hbase hmax herr hcur hcode.fit hcode.shift_lt
    (by rw [hs]; simp only [List.append_assoc]; rfl)
  rw [hcode.value] at hvalue
  exact ⟨d, Prod.ext (BitVec.eq_of_toNat_eq hvalue) hd, htook⟩

/-- Between `c` and `d` the bits were taken, and then the number was refused (41_bitchannel.md R146). -/
structure Channel.Refused (c : Channel) (rest : List Bool) (d : Channel) : Prop where
  dir : d.dir = c.dir
  err : d.err = .invalidParameter
  unread : d.unread = rest

theorem Channel.Took.refused (h : c.Took bits d) (hs : c.unread = bits ++ rest) :
    c.Refused rest (d.setErr .invalidParameter) := by
  refine ⟨(Channel.setErr_dir d _).trans h.dir, Channel.setErr_of_clear h.err _, ?_⟩
  rw [← h.unread hs]
  simp [Channel.unread]

theorem readNumber_overflow (hbase : 1 ≤ base) (hmax : base ≤ 64) (herr : c.err = .clear) (hcur : c.cursor.toNat < 64)
    (h : OverflowingChunk base c.unread rest) : ∃ d, readNumber base c = (0#64, d) ∧ c.Refused rest d := by
  obtain ⟨as, b, hfit, hsh, hb, hover, hs⟩ := h
  have hs' := hs
  rw [List.append_assoc] at hs'
  obtain ⟨d, r, hafter⟩ := read_contChunks hbase hmax herr hcur hfit hsh hs'
  obtain ⟨e, he, htook⟩ := readBits_takes_lowBits hafter.took.err hafter.took.cursor hb hmax (hafter.took.unread hs')
  refine ⟨e.setErr .invalidParameter, ?_, (hafter.took.trans htook).refused hs⟩
  rw [hafter.loop, rounds_left hbase hsh]
  exact readNumberLoop_overflow hafter.took.err he htook.err ((chunkOverflows_iff hsh).2 hover) r

theorem readNumber_excess (hbase : 1 ≤ base) (hmax : base ≤ 64) (herr : c.err = .clear) (hcur : c.cursor.toNat < 64)
    (h : ExcessContinuation base c.unread rest) : ∃ d, readNumber base c = (0#64, d) ∧ c.Refused rest d := by
  obtain ⟨as, hfit, hpos, hsh, hend, hs⟩ := h
  obtain ⟨init, a, rfl⟩ := (List.eq_nil_or_concat' as).resolve_left (List.ne_nil_of_length_pos hpos)
  rw [List.length_append, List.length_singleton] at hsh hend
  rw [Nat.add_sub_cancel] at hsh
  have hs' := hs
  rw [contChunks_concat, List.append_assoc] at hs'
  obtain ⟨d, r, hafter⟩ := read_contChunks hbase hmax herr hcur hfit.init hsh hs'
  have hstream := hafter.took.unread hs'
  rw [List.append_assoc] at hstream
  obtain ⟨d', e, hd, hderr, he, htook⟩ := read_chunk hafter.took.err hafter.took.cursor hfit.last_lt hmax hstream
  rw [contChunks_concat] at hs
  refine ⟨e.setErr .invalidParameter, ?_, (hafter.took.trans htook).refused hs⟩
  rw [hafter.loop, rounds_left hbase hsh]
  exact readNumberLoop_excess hafter.took.err hd hderr (chunkOverflows_eq_false hsh hfit.last_fits) he htook.err rfl
    (by rwa [← Nat.succ_mul]) r

/-- Where the stream ends within the number and the host fails the next read, the number is 0 with IOFailure. -/
theorem readNumber_runs_out {ws : List Word} {more : List ReadAnswer} (hbase : 1 ≤ base) (hmax : base ≤ 64)
    (herr : c.err = .clear) (hcur : c.cursor.toNat < 64) (h : CutNumber base c.unread)
    (ha : c.port.readAnswers = ws.map .word ++ .fail :: more) :
    ∃ d, readNumber base c = (0#64, d) ∧ c.RanOut ws more d := by
  obtain ⟨as, part, hfit, hsh, hs, hpart⟩ := h
  obtain ⟨d, r, hafter⟩ := read_contChunks hbase hmax herr hcur hfit hsh hs
  rw [hafter.loop, rounds_left hbase hsh]
  rcases hpart with hshort | ⟨b, hfitb, rfl⟩
  · obtain ⟨e, he, hout⟩ := hafter.took.readBits_runs_out hs hshort hmax ha
    exact ⟨e, readNumberLoop_chunk_failed hafter.took.err he hout.err_ne r, hout⟩
  · have hstream := hafter.took.unread hs
    rw [← List.append_nil (lowBits b base)] at hstream
    obtain ⟨e, he, htook⟩ :=
      readBits_takes_lowBits hafter.took.err hafter.took.cursor hfitb.last_lt hmax hstream
    obtain ⟨f, hf, hout⟩ := (hafter.took.trans htook).readBit_runs_out hs ha
    exact ⟨f, readNumberLoop_bit_failed hafter.took.err he htook.err
      (chunkOverflows_eq_false hsh hfitb.last_fits) hf hout.err_ne r, hout⟩

end Chunks

end Sys2Proof.Machine
end

section
/-! BC.OPENW to BC.FLUSH: opening and closing a session, and what a write command appends to the written stream
(41_bitchannel.md R150 to R156). -/
namespace Sys2Proof.Machine

/-! ## Opening and closing -/

/-- `STATUS` of an idle block whose session is fresh (10_state.md R38). -/
theorem statusView_of_fresh {s : State} (hbusy : s.busy = false) (hfault : s.faultCause = .none) (herr : s.chan.err = .clear)
    (hcur : s.chan.cursor = 0#7) : s.statusView = (dirCode s.chan.dir).setWidth 64 <<< 2 := by
  have hclear : s.faulted = false := by simp [State.faulted, hfault]
  simp [State.statusView, hbusy, hclear, herr, hcur, errCode]

/-- Settles O35: the three commands by definition, STATUS from its fields. -/
theorem sessionOpenAndClose : Obligations.SessionOpenAndClose := by
  intro s
  refine ⟨⟨_, rfl, rfl, fun hf => ?_⟩, ⟨_, rfl, rfl, fun hf => ?_⟩, rfl, fun hd => ?_⟩
  · exact statusView_of_fresh rfl hf rfl rfl
  · exact statusView_of_fresh rfl hf rfl rfl
  · have hclose : s.chan.close = s.chan := by rw [Channel.close, ← hd]
    change complete (s.setChan s.chan.close) = _
    rw [hclose]
    rfl

/-! ## The session after a stream -/

section Stream
variable {c d : Channel} {bits : List Bool} {full : Word}

theorem writeStream_writes (bits : List Bool) (c : Channel) : c.Writes (writeStream bits c) := by
  induction bits using List.reverseRecOn with
  | nil => exact .refl
  | append_singleton bits b ih => rw [writeStream_concat]; exact .bit b ih

/-- The bits found room in ACC (41_bitchannel.md R140). -/
structure Channel.Filled (c : Channel) (bits : List Bool) (d : Channel) : Prop where
  err : d.err = .clear
  port : d.port = c.port
  words : d.words = c.words
  cursor : d.cursor.toNat = c.cursor.toNat + bits.length
  pending : lowBits d.acc d.cursor.toNat = lowBits c.acc c.cursor.toNat ++ bits

/-- ACC, filled up to the word `full`, was accepted and cleared (41_bitchannel.md R140). -/
structure Channel.Spilled (c : Channel) (full : Word) (d : Channel) : Prop where
  err : d.err = .clear
  acc : d.acc = 0#64
  cursor : d.cursor = 0#7
  words : d.words = c.words + 1#64
  port : d.port = c.port.afterWrite full

/-- ACC, filled up to the word `full`, was refused and kept (41_bitchannel.md R140). -/
structure Channel.Stuck (c : Channel) (full : Word) (d : Channel) : Prop where
  err : d.err = .ioFailure
  acc : d.acc = full
  cursor : d.cursor.toNat = 64
  words : d.words = c.words + 1#64
  port : d.port = c.port.afterWrite full

theorem Channel.Spilled.writerOk (h : c.Spilled full d) : d.WriterOk := by
  simp [Channel.WriterOk, h.cursor, h.acc]

theorem Channel.Spilled.pending (h : c.Spilled full d) : lowBits d.acc d.cursor.toNat = [] := by
  rw [h.cursor]; rfl

theorem writeBit_of_room (he : c.err = .clear) (hroom : c.cursor.toNat < 64) (b : Bool) :
    writeBit b c = placeBit b c := by
  have hne : c.cursor ≠ 64#7 := fun h => by simp [h] at hroom
  rcases writeBit_cases he b with ⟨-, hw⟩ | ⟨hfull, -⟩ | ⟨hfull, -⟩
  · exact hw
  · exact absurd hfull hne
  · exact absurd hfull hne

/-- A bit after a full word that the host accepts. -/
theorem writeBit_of_accepted (he : c.err = .clear) (hfull : c.cursor.toNat = 64) (ha : c.port.nextWrite = .ok) (b : Bool) :
    writeBit b c = placeBit b (drained c) := by
  rcases writeBit_cases he b with ⟨hne, -⟩ | ⟨-, -, hw⟩ | ⟨-, hf, -⟩
  · exact absurd (BitVec.eq_of_toNat_eq (by rw [hfull]; rfl)) hne
  · exact hw
  · rw [ha] at hf; cases hf

/-- A bit after a full word that the host refuses. -/
theorem writeBit_of_refused (he : c.err = .clear) (hfull : c.cursor.toNat = 64) (ha : c.port.nextWrite = .fail) (b : Bool) :
    writeBit b c = portWrite c.acc c := by
  rcases writeBit_cases he b with ⟨hne, -⟩ | ⟨-, hok, -⟩ | ⟨-, -, hw⟩
  · exact absurd (BitVec.eq_of_toNat_eq (by rw [hfull]; rfl)) hne
  · rw [ha] at hok; cases hok
  · exact hw

theorem drained_spilled (he : c.err = .clear) (ha : c.port.nextWrite = .ok) : c.Spilled c.acc (drained c) :=
  ⟨drained_err he ha, rfl, rfl, drained_words c, drained_port c⟩

theorem portWrite_stuck (he : c.err = .clear) (hfull : c.cursor.toNat = 64) (ha : c.port.nextWrite = .fail) :
    c.Stuck c.acc (portWrite c.acc c) :=
  ⟨by rw [portWrite_err he, ha], portWrite_acc c c.acc, (congrArg _ (portWrite_cursor c c.acc)).trans hfull,
    portWrite_words c c.acc, portWrite_port c c.acc⟩

/-- A stream that finds room in ACC makes no transaction. -/
theorem writeStream_filled (hc : c.WriterOk) (he : c.err = .clear) (hroom : c.cursor.toNat + bits.length ≤ 64) :
    c.Filled bits (writeStream bits c) := by
  induction bits using List.reverseRecOn with
  | nil => exact ⟨he, rfl, rfl, rfl, (List.append_nil _).symm⟩
  | append_singleton bits b ih =>
    rw [List.length_append, List.length_singleton] at hroom
    have h := ih (by omega)
    have hok := (writeStream_writes bits c).writerOk hc
    have hcur := h.cursor
    have hlt : (writeStream bits c).cursor.toNat < 64 := by omega
    have hplaced := lowBits_placeBit hok hlt b
    rw [writeStream_concat, writeBit_of_room h.err hlt]
    refine ⟨h.err, h.port, h.words, ?_, ?_⟩
    · rw [List.length_append, List.length_singleton, ← Nat.add_assoc, ← hcur]
      exact cursor_add_one hok.1
    · rw [hplaced, h.pending, List.append_assoc]

/-- A stream that finds no room in ACC offers the first 64 of the bits pending and to come. -/
theorem writeStream_offers (hc : c.WriterOk) (he : c.err = .clear) (hlong : 64 < c.cursor.toNat + bits.length) :
    ∃ full, wordBits full = (lowBits c.acc c.cursor.toNat ++ bits).take 64
      ∧ (c.port.nextWrite = .ok → ∃ d, c.Spilled full d
          ∧ writeStream bits c = writeStream ((lowBits c.acc c.cursor.toNat ++ bits).drop 64) d)
      ∧ (c.port.nextWrite = .fail → c.Stuck full (writeStream bits c)) := by
  have hcur := hc.1
  have hhead : (bits.take (64 - c.cursor.toNat)).length = 64 - c.cursor.toNat := by
    rw [List.length_take]; omega
  obtain ⟨b, rest, hrest⟩ : ∃ b rest, bits.drop (64 - c.cursor.toNat) = b :: rest :=
    List.exists_cons_of_length_pos (by rw [List.length_drop]; omega)
  have hfill := writeStream_filled (bits := bits.take (64 - c.cursor.toNat)) hc he (by omega)
  have hsplit : writeStream bits c = writeStream (b :: rest) (writeStream (bits.take (64 - c.cursor.toNat)) c) := by
    rw [← hrest, ← writeStream_append, List.take_append_drop]
  generalize writeStream (bits.take (64 - c.cursor.toNat)) c = e at hfill hsplit
  have hfull : e.cursor.toNat = 64 := by rw [hfill.cursor]; omega
  have hbits : wordBits e.acc = (lowBits c.acc c.cursor.toNat ++ bits).take 64 := by
    rw [List.take_append, List.take_of_length_le (by simpa using hcur), lowBits_length, ← hfill.pending, hfull]
    rfl
  have hleft : (lowBits c.acc c.cursor.toNat ++ bits).drop 64 = b :: rest := by
    rw [List.drop_append, List.drop_eq_nil_of_le (by simpa using hcur), lowBits_length, List.nil_append, hrest]
  rw [hleft, hsplit, ← hfill.port]
  refine ⟨e.acc, hbits, fun ha => ⟨drained e, ?_, ?_⟩, fun ha => ?_⟩
  · obtain ⟨herr, hacc, hzero, hwords, hport⟩ := drained_spilled hfill.err ha
    exact ⟨herr, hacc, hzero, by rw [hwords, hfill.words], by rw [hport, hfill.port]⟩
  · rw [writeStream_cons, writeStream_cons, writeBit_of_room (drained_err hfill.err ha) (by simp),
      writeBit_of_accepted hfill.err hfull ha]
  · obtain ⟨herr, hacc, hend, hwords, hport⟩ := portWrite_stuck hfill.err hfull ha
    rw [writeStream_cons, writeBit_of_refused hfill.err hfull ha, writeStream_of_err (by rw [herr]; decide)]
    exact ⟨herr, hacc, hend, by rw [hwords, hfill.words], by rw [hport, hfill.port]⟩

/-- A longer stream, its first word accepted, offers the next 64 bits too. -/
theorem writeStream_offers_next {a : WriteAnswer} {more : List WriteAnswer} (hc : c.WriterOk) (he : c.err = .clear)
    (hlong : 128 < c.cursor.toNat + bits.length) (ha : c.port.writeAnswers = .ok :: a :: more) :
    ∃ first second d, wordBits first = (lowBits c.acc c.cursor.toNat ++ bits).take 64
      ∧ wordBits second = ((lowBits c.acc c.cursor.toNat ++ bits).drop 64).take 64 ∧ c.Spilled first d
      ∧ d.port.nextWrite = a
      ∧ (a = .ok → ∃ e, d.Spilled second e
          ∧ writeStream bits c = writeStream ((lowBits c.acc c.cursor.toNat ++ bits).drop 128) e)
      ∧ (a = .fail → d.Stuck second (writeStream bits c)) := by
  obtain ⟨first, hfirst, hok, -⟩ := writeStream_offers (bits := bits) hc he (by omega)
  obtain ⟨d, hspill, hd⟩ := hok (Port.nextWrite_cons ha)
  have hanswers : d.port.writeAnswers = a :: more := by rw [hspill.port, Port.afterWrite_writeAnswers ha]
  have hnext := Port.nextWrite_cons hanswers
  have hlen : ((lowBits c.acc c.cursor.toNat ++ bits).drop 64).length = c.cursor.toNat + bits.length - 64 := by simp
  obtain ⟨second, hsecond, hok', hfail'⟩ := writeStream_offers hspill.writerOk hspill.err
    (bits := (lowBits c.acc c.cursor.toNat ++ bits).drop 64) (by omega)
  rw [hspill.pending, List.nil_append] at hsecond hok'
  rw [List.drop_drop, ← hd, hnext] at hok'
  rw [← hd, hnext] at hfail'
  exact ⟨first, second, d, hfirst, hsecond, hspill, hnext, hok', hfail'⟩

end Stream

/-! ## The write commands -/

section Commands
variable {s : State}

theorem bitCountOk_of_le {v : Word} (h : v.toNat ≤ 64) : bitCountOk v = true := decide_eq_true h

theorem baseOk_of_range {v : Word} (hlow : 1 ≤ v.toNat) (hhigh : v.toNat ≤ 64) : baseOk v = true := by
  simp [baseOk, hlow, hhigh]

/-- The next state of a command that changes the session only. -/
def State.withSession (c : Channel) (s : State) : State := { s with chan := c, busy := false }

theorem exec_bcWbit (hdir : s.chan.dir = .write) :
    exec .bcWbit s = .next (s.withSession (writeBit (s.arg0.getLsbD 0) s.chan)) := by
  change execBcWbit s = _
  rw [execBcWbit, if_neg (not_not.2 hdir)]
  rfl

theorem exec_bcWbits (hdir : s.chan.dir = .write) (hn : s.arg1.toNat ≤ 64) :
    exec .bcWbits s = .next (s.withSession (writeStream (lowBits s.arg0 s.arg1.toNat) s.chan)) := by
  change execBcWbits s = _
  rw [execBcWbits, if_neg (not_not.2 hdir), if_neg (by simp [bitCountOk_of_le hn]), writeBits_eq_stream]
  rfl

theorem exec_bcWnum (hdir : s.chan.dir = .write) (hlow : 1 ≤ s.arg1.toNat) (hhigh : s.arg1.toNat ≤ 64) :
    exec .bcWnum s = .next (s.withSession (writeStream (vlCode s.arg1.toNat s.arg0) s.chan)) := by
  change execBcWnum s = _
  rw [execBcWnum, if_neg (not_not.2 hdir), if_neg (by simp [baseOk_of_range hlow hhigh])]
  split
  next hset => rw [writeStream_of_err hset]; rfl
  next => rw [writeNumber_eq_stream]; rfl

theorem exec_bcFlush (hdir : s.chan.dir = .write) : exec .bcFlush s = .next (s.withSession (flush s.chan)) := by
  change execBcFlush s = _
  rw [execBcFlush, if_neg (not_not.2 hdir)]
  rfl

/-- Settles O36: of the three ends of `writeBit` CURSOR and the host's answer choose one. -/
theorem wbitAppendsOneBit : Obligations.WbitAppendsOneBit := by
  intro s hdir hok herr
  have hwriter := (Channel.ok_of_write hdir).1 hok
  have hbit : (s.arg0.getLsbD 0).toNat = s.arg0.toNat % 2 := by
    have := bitsValue_lowBits s.arg0 1
    simpa [lowBits, bitsValue] using this
  refine ⟨_, exec_bcWbit hdir, rfl, (writeBit_dir _ _).trans hdir, fun hroom => ?_, fun hfull ha => ?_,
    fun hfull ha => ?_, fun hclear => writeBit_written hwriter hclear⟩
  all_goals simp only [State.withSession]
  · rw [writeBit_of_room herr hroom, ← hbit]
    exact ⟨or_bit_toNat _ hwriter.2 hroom, cursor_add_one hwriter.1, herr, rfl, rfl⟩
  · rw [writeBit_of_accepted herr hfull ha, ← hbit]
    refine ⟨?_, rfl, drained_err herr ha, drained_words _, ?_⟩
    · exact (or_bit_toNat (v := 0#64) (n := 0) _ (by decide) (by decide)).trans (by simp)
    · rw [placeBit_port, drained_port, Port.afterWrite_trace, ha]
  · obtain ⟨hio, hacc, -, hwords, hport⟩ := portWrite_stuck herr hfull ha
    rw [writeBit_of_refused herr hfull ha]
    exact ⟨hacc, portWrite_cursor _ _, hio, hwords, by rw [hport, Port.afterWrite_trace, ha]⟩

/-- Settles O37: the bits find room in ACC, or the first 64 of those pending and to come are offered. -/
theorem wbitsAppendsLowBits : Obligations.WbitsAppendsLowBits := by
  intro s hdir hok herr hn
  have hwriter := (Channel.ok_of_write hdir).1 hok
  have hcur := hwriter.1
  have hlen := lowBits_length s.arg0 s.arg1.toNat
  refine ⟨_, exec_bcWbits hdir hn, rfl, (writeStream_writes _ _).dir.trans hdir,
    fun hclear => writeStream_written hwriter hclear, fun hroom => ?_, fun hlong => ?_⟩
  all_goals simp only [State.withSession]
  · have hfill := writeStream_filled hwriter herr (by rwa [hlen])
    exact ⟨hfill.err, hfill.port, hfill.words, by rw [hfill.cursor, hlen]⟩
  · obtain ⟨full, hfull, hok, hfail⟩ := writeStream_offers hwriter herr (by rwa [hlen])
    refine ⟨full, hfull, ?_⟩
    cases ha : s.chan.port.nextWrite with
    | ok =>
      obtain ⟨d, hspill, hd⟩ := hok ha
      have hleft : ((lowBits s.chan.acc s.chan.cursor.toNat ++ lowBits s.arg0 s.arg1.toNat).drop 64).length
          = s.chan.cursor.toNat + s.arg1.toNat - 64 := by simp
      have hfill := writeStream_filled (bits := (lowBits s.chan.acc s.chan.cursor.toNat ++ lowBits s.arg0 s.arg1.toNat).drop 64)
        hspill.writerOk hspill.err (by rw [hspill.cursor, hleft]; simp only [BitVec.toNat_ofNat]; omega)
      have hend := hfill.cursor
      rw [hspill.cursor, hleft] at hend
      rw [hd, hfill.words, hfill.port, hspill.words, hspill.port, Port.afterWrite_trace, ha]
      exact ⟨rfl, rfl, fun _ => ⟨hfill.err, hend.trans (Nat.zero_add _)⟩, (fun h => nomatch h)⟩
    | fail =>
      have hstuck := hfail ha
      rw [hstuck.words, hstuck.port, Port.afterWrite_trace, ha]
      exact ⟨rfl, rfl, (fun h => nomatch h), fun _ => ⟨hstuck.err, hstuck.cursor, hstuck.acc⟩⟩

/-- The chunks of a number's code are the least count that holds it (30_encoding.md R88). -/
theorem vlCode_length {base : Nat} (hbase : 1 ≤ base) (v : Word) : ∃ c, 1 ≤ c ∧ v.toNat < 2 ^ (c * base)
    ∧ (c = 1 ∨ 2 ^ ((c - 1) * base) ≤ v.toNat) ∧ (vlCode base v).length = c * (base + 1) := by
  obtain ⟨as, b, hcode⟩ := exists_numberCode hbase v
  refine ⟨as.length + 1, by omega, hcode.lt, ?_, hcode.length⟩
  exact hcode.le.imp (by rintro rfl; rfl) id

theorem vlCode_length_le {base : Nat} (hbase : 1 ≤ base) (hmax : base ≤ 64) (v : Word) : (vlCode base v).length ≤ 128 := by
  obtain ⟨as, b, hcode⟩ := exists_numberCode hbase v
  exact hcode.length_le hbase hmax

/-- Settles O38: the code is one stream; a word is offered for its first 64 bits, and one for its next 64. -/
theorem wnumAppendsTheNumberCode : Obligations.WnumAppendsTheNumberCode := by
  intro s hdir hok herr hlow hhigh
  refine ⟨vlCode_length hlow s.arg0, ?_⟩
  have hwriter := (Channel.ok_of_write hdir).1 hok
  have hmax := vlCode_length_le hlow hhigh s.arg0
  have hcur := hwriter.1
  generalize hcode : vlCode s.arg1.toNat s.arg0 = code at hmax
  have hlen : (lowBits s.chan.acc s.chan.cursor.toNat ++ code).length = s.chan.cursor.toNat + code.length := by simp
  refine ⟨s.withSession (writeStream code s.chan), _, by rw [← hcode]; exact exec_bcWnum hdir hlow hhigh, rfl,
    (writeStream_writes _ _).dir.trans hdir, rfl, by omega, fun hclear => writeStream_written hwriter hclear,
    fun hroom => ?_, fun hlong ha => ?_, fun hlong hshort ha => ?_, fun more hlong ha => ?_, fun more hlong ha => ?_⟩
  all_goals simp only [State.withSession]
  · have hfill := writeStream_filled (bits := code) hwriter herr (by omega)
    exact ⟨hfill.err, hfill.port, hfill.words⟩
  · obtain ⟨full, hfull, -, hfail⟩ := writeStream_offers (bits := code) hwriter herr (by omega)
    have hstuck := hfail ha
    rw [hstuck.acc, hstuck.port, Port.afterWrite_trace, ha]
    exact ⟨hstuck.err, hstuck.cursor, hfull, hstuck.words, rfl⟩
  · obtain ⟨full, -, hok, -⟩ := writeStream_offers (bits := code) hwriter herr (by omega)
    obtain ⟨d, hspill, hd⟩ := hok ha
    have hfill := writeStream_filled (bits := (lowBits s.chan.acc s.chan.cursor.toNat ++ code).drop 64) hspill.writerOk
      hspill.err (by rw [hspill.cursor, List.length_drop]; simp only [BitVec.toNat_ofNat]; omega)
    rw [hd]
    exact ⟨hfill.err, hfill.words.trans hspill.words⟩
  · obtain ⟨first, second, d, hfirst, hsecond, hspill, hnext, -, hfail⟩ :=
      writeStream_offers_next (bits := code) hwriter herr (by omega) ha
    have hstuck := hfail rfl
    rw [hstuck.acc, hstuck.words, hspill.words, hstuck.port, Port.afterWrite_trace, hnext, hspill.port,
      Port.afterWrite_trace, Port.nextWrite_cons ha, BitVec.add_assoc]
    exact ⟨hstuck.err, hstuck.cursor, hsecond, rfl, first, hfirst, rfl⟩
  · obtain ⟨first, second, d, -, -, hspill, -, hok, -⟩ :=
      writeStream_offers_next (bits := code) hwriter herr (by omega) ha
    obtain ⟨e, hspill', he⟩ := hok rfl
    have hfill := writeStream_filled (bits := (lowBits s.chan.acc s.chan.cursor.toNat ++ code).drop 128) hspill'.writerOk
      hspill'.err (by rw [hspill'.cursor, List.length_drop]; simp only [BitVec.toNat_ofNat]; omega)
    rw [he, hfill.words, hspill'.words, hspill.words, BitVec.add_assoc]
    exact ⟨hfill.err, rfl⟩

/-- Settles O39: of the three ends of `flush` CURSOR and the host's answer choose one. -/
theorem flushPadsTheLastWord : Obligations.FlushPadsTheLastWord := by
  intro s hdir hok herr
  have hwriter := (Channel.ok_of_write hdir).1 hok
  have hzero := cursor_eq_zero s.chan
  refine ⟨fun h0 => ?_, fun hpos => ⟨_, exec_bcFlush hdir, rfl, (flush_dir _).trans hdir, ?_⟩⟩
  · rw [exec_bcFlush hdir]
    rcases flush_cases herr with ⟨-, hf⟩ | ⟨hne, -⟩ | ⟨hne, -⟩
    · rw [hf]; rfl
    · exact absurd (hzero.2 h0) hne
    · exact absurd (hzero.2 h0) hne
  simp only [State.withSession]
  rcases flush_cases herr with ⟨h0, -⟩ | ⟨-, ha, hf⟩ | ⟨-, ha, hf⟩
  · exact absurd (hzero.1 h0) (Nat.pos_iff_ne_zero.1 hpos)
  · have hdrained : flush s.chan = drained s.chan := hf
    rw [hdrained, drained_port, Port.afterWrite_trace, ha]
    exact ⟨drained_words _, rfl, fun _ => ⟨rfl, rfl, drained_err herr ha, drained_written hwriter ha⟩,
      fun h => nomatch h⟩
  · have hio := portWrite_err herr s.chan.acc
    rw [ha] at hio
    rw [hf, portWrite_port, Port.afterWrite_trace, ha]
    exact ⟨portWrite_words _ _, rfl, (fun h => nomatch h), fun _ => ⟨portWrite_acc _ _, portWrite_cursor _ _, hio⟩⟩

end Commands
end Sys2Proof.Machine
end

section
/-! BC.RBIT, BC.RBITS and BC.RNUM (41_bitchannel.md R157 to R159): what they take from the read stream, how they fail, and the round
trip of numbers (R148). -/
namespace Sys2Proof.Machine

section Commands
variable {s t : State}

/-- The next state of a command that changes the session and RES0 only. -/
def State.withRead (v : Word) (c : Channel) (s : State) : State := { s with chan := c, res0 := v, busy := false }

theorem exec_bcRbit (hdir : s.chan.dir = .read) : exec .bcRbit s
    = .next (s.withRead ((BitVec.ofBool (readBit s.chan).1).setWidth 64) (readBit s.chan).2) := by
  change execBcRbit s = _
  rw [execBcRbit, if_neg (not_not.2 hdir)]
  rfl

theorem exec_bcRbits (hdir : s.chan.dir = .read) (hn : s.arg0.toNat ≤ 64) : exec .bcRbits s
    = .next (s.withRead (if (readBits s.arg0.toNat s.chan).2.err ≠ .clear then 0#64 else (readBits s.arg0.toNat s.chan).1)
        (readBits s.arg0.toNat s.chan).2) := by
  change execBcRbits s = _
  rw [execBcRbits, if_neg (not_not.2 hdir), if_neg (by simp [bitCountOk_of_le hn])]
  rfl

theorem exec_bcRnum (hdir : s.chan.dir = .read) (hlow : 1 ≤ s.arg0.toNat) (hhigh : s.arg0.toNat ≤ 64) : exec .bcRnum s
    = .next (s.withRead (readNumber s.arg0.toNat s.chan).1 (readNumber s.arg0.toNat s.chan).2) := by
  change execBcRnum s = _
  rw [execBcRnum, if_neg (not_not.2 hdir), if_neg (by simp [baseOk_of_range hlow hhigh])]
  rfl

/-! ## What is taken -/

/-- Settles O40: the next bit is taken, or the read of a fresh word fails. -/
theorem rbitTakesTheNextBit : Obligations.RbitTakesTheNextBit := by
  intro s hdir hok herr
  have hcur := (Channel.ok_of_read hdir).1 hok
  refine ⟨fun b rest hs => ?_, fun h0 ha => ?_⟩
  · obtain ⟨d, hd, htook, hwords⟩ := readBit_takes herr hcur hs
    refine ⟨_, exec_bcRbit hdir, ?_, ?_⟩
    · rw [hd]
      cases b <;> rfl
    · simp only [State.withRead]
      rw [hd]
      exact ⟨htook.dir.trans hdir, htook.err, htook.unread hs, hwords⟩
  · have hfail : readBit s.chan = (false, (portRead s.chan).2) ∧ (portRead s.chan).2.err = .ioFailure := by
      rcases portRead_cases herr with ⟨w, hw, -⟩ | ⟨-, -, hio⟩
      · rw [ha] at hw; cases hw
      rcases readBit_cases herr with ⟨hne, -⟩ | ⟨-, w, hw, -⟩ | ⟨-, -, hr⟩
      · exact absurd ((cursor_eq_zero _).2 h0) hne
      · rw [ha] at hw; cases hw
      · exact ⟨hr, hio⟩
    obtain ⟨hr, hio⟩ := hfail
    refine ⟨_, exec_bcRbit hdir, ?_, ?_⟩
    · rw [hr]; rfl
    · simp only [State.withRead]
      rw [hr]
      refine ⟨(portRead_dir _).trans hdir, hio, portRead_acc _, portRead_cursor _, portRead_words _, ?_⟩
      rw [portRead_port, Port.afterRead_trace, ha]

/-- Settles O41: the bits are taken one after another. -/
theorem rbitsTakesTheNextBits : Obligations.RbitsTakesTheNextBits := by
  intro s hdir hok herr hn hlen
  have hcur := (Channel.ok_of_read hdir).1 hok
  have hs := (List.take_append_drop s.arg0.toNat s.chan.unread).symm
  obtain ⟨d, hd, hvalue, htook⟩ := readBits_takes herr hcur (by rw [List.length_take]; omega) hn hs
  refine ⟨_, exec_bcRbits hdir hn, rfl, ?_, ?_⟩
  · simp only [State.withRead]
    rw [hd, if_neg (not_not.2 htook.err), hvalue]
  · simp only [State.withRead]
    rw [hd]
    exact ⟨htook.unread hs, htook.dir.trans hdir, htook.err⟩

/-- BC.RNUM where the stream begins with the code of a number. -/
theorem exec_bcRnum_vlCode {v : Word} {rest : List Bool} (hdir : s.chan.dir = .read) (hcur : s.chan.cursor.toNat < 64)
    (herr : s.chan.err = .clear) (hlow : 1 ≤ s.arg0.toNat) (hhigh : s.arg0.toNat ≤ 64)
    (hs : s.chan.unread = vlCode s.arg0.toNat v ++ rest) :
    ∃ d, exec .bcRnum s = .next (s.withRead v d) ∧ s.chan.Took (vlCode s.arg0.toNat v) d := by
  obtain ⟨d, hd, htook⟩ := readNumber_takes_vlCode hlow hhigh herr hcur hs
  exact ⟨d, by rw [exec_bcRnum hdir hlow hhigh, hd], htook⟩

/-- Settles O42: a number is its chunks, and its code is the least of them. -/
theorem rnumReadsTheNumberCode : Obligations.RnumReadsTheNumberCode := by
  intro s rest hdir hok herr hlow hhigh
  have hcur := (Channel.ok_of_read hdir).1 hok
  refine ⟨fun v hs => ?_, fun as b hfit hsh hs => ?_⟩
  · obtain ⟨d, hexec, htook⟩ := exec_bcRnum_vlCode hdir hcur herr hlow hhigh hs
    exact ⟨_, hexec, rfl, htook.unread hs, htook.dir.trans hdir, htook.err⟩
  · obtain ⟨d, hd, hvalue, htook⟩ := readNumber_takes hlow hhigh herr hcur hfit hsh hs
    have hs' : s.chan.unread = (contChunks s.arg0.toNat as ++ lowBits b s.arg0.toNat ++ [false]) ++ rest := by
      rw [hs, List.append_assoc _ [false]]; rfl
    refine ⟨_, exec_bcRnum hdir hlow hhigh, rfl, hvalue, ?_⟩
    simp only [State.withRead]
    rw [hd]
    exact ⟨htook.unread hs', htook.dir.trans hdir, htook.err⟩

/-- A number out of range, in either way, is refused. -/
theorem readNumber_refuses {base : Nat} {c : Channel} {rest : List Bool} (hbase : 1 ≤ base) (hmax : base ≤ 64)
    (herr : c.err = .clear) (hcur : c.cursor.toNat < 64)
    (h : OverflowingChunk base c.unread rest ∨ ExcessContinuation base c.unread rest) :
    ∃ d, readNumber base c = (0#64, d) ∧ c.Refused rest d := by
  rcases h with hover | hexcess
  · exact readNumber_overflow hbase hmax herr hcur hover
  · exact readNumber_excess hbase hmax herr hcur hexcess

/-- Settles O43: the fitting chunks are read first, then the number is refused. -/
theorem rnumRefusesAnOverflowingChunk : Obligations.RnumRefusesAnOverflowingChunk := by
  intro s rest hdir hok herr hlow hhigh h
  obtain ⟨d, hd, href⟩ := readNumber_refuses hlow hhigh herr ((Channel.ok_of_read hdir).1 hok) h
  exact ⟨s.withRead 0#64 d, by rw [exec_bcRnum hdir hlow hhigh, hd], rfl, href.err, href.unread, href.dir.trans hdir⟩

/-! ## Failed reads -/

/-- `readBit` gives 0 unless it ends with ERR clear (41_bitchannel.md R144). -/
theorem readBit_zero_or_clear (c : Channel) : (readBit c).1 = false ∨ (readBit c).2.err = .clear := by
  unfold readBit
  dsimp only
  split
  · exact .inl rfl
  split
  · exact .inl rfl
  next hclear => exact .inr (not_not.1 hclear)

/-- Settles O44: each read gives 0 unless it ends with ERR clear; where the listed words run out, the next read is the one that
fails. -/
theorem failedReadsGiveZero : Obligations.FailedReadsGiveZero := by
  refine ⟨fun s t hdir hset => ⟨fun h => ?_, fun hn h => ?_, fun hlow hhigh h => ?_⟩,
    fun i s ws more hdir hok herr hn ha hcut => ?_⟩
  · rw [exec_bcRbit hdir] at h
    injection h with h
    subst h
    have hzero := (readBit_zero_or_clear s.chan).resolve_right hset
    simp only [State.withRead]
    rw [hzero]
    rfl
  · rw [exec_bcRbits hdir hn] at h
    injection h with h
    subst h
    exact if_pos hset
  · rw [exec_bcRnum hdir hlow hhigh] at h
    injection h with h
    subst h
    exact readNumberLoop_zero_or_clear.resolve_right hset
  · have hcur := (Channel.ok_of_read hdir).1 hok
    have hread : ∃ d, exec i s = .next (s.withRead 0#64 d) ∧ s.chan.RanOut ws more d := by
      rcases hcut with ⟨rfl, hshort⟩ | ⟨rfl, hlow, hnumber⟩
      · obtain ⟨d, hd, hout⟩ := (Channel.Took.refl herr hcur).readBits_runs_out (List.nil_append _).symm hshort hn ha
        exact ⟨d, by rw [exec_bcRbits hdir hn, hd, if_pos hout.err_ne], hout⟩
      · obtain ⟨d, hd, hout⟩ := readNumber_runs_out hlow hn herr hcur hnumber ha
        exact ⟨d, by rw [exec_bcRnum hdir hlow hn, hd], hout⟩
    obtain ⟨d, hexec, hout⟩ := hread
    exact ⟨_, hexec, rfl, hout.dir.trans hdir, hout.err, hout.cursor, hout.acc, hout.words, hout.answers, hout.trace⟩

/-! ## The round trip of numbers -/

/-- What a fresh writer sends for a stream and a flush: the stream and fewer than 64 zeros (41_bitchannel.md R143). -/
theorem flushed_stream_words {c : Channel} {bits : List Bool} {ws : List Word} (hc : c.WriterOk) (hcur : c.cursor = 0#7)
    (h : (flush (writeStream bits c)).err = .clear)
    (hws : acceptedWords (flush (writeStream bits c)).port.trace = acceptedWords c.port.trace ++ ws) :
    ∃ pad, ws.flatMap wordBits = bits ++ List.replicate pad false := by
  have hwriter := (writeStream_writes bits c).writerOk hc
  obtain ⟨pad, -, hflush⟩ := flush_written hwriter h
  rw [written_of_empty (flush_clean hwriter h).2, writeStream_written hc (flush_err_clear h), written_of_empty hcur, hws,
    List.flatMap_append, List.append_assoc] at hflush
  exact ⟨pad, List.append_cancel_left hflush⟩

/-- Settles O45: the words sent hold the code of the number, which the reader's stream then begins with. -/
theorem numberRoundTrip : Obligations.NumberRoundTrip := by
  intro s a b u ws more hdir hok hcur herr hlow hhigh hwnum hflush hclear hws hudir hucur huerr harg hanswers
  rw [exec_bcWnum hdir hlow hhigh] at hwnum
  injection hwnum with hwnum
  subst hwnum
  rw [exec_bcFlush ((writeStream_writes _ _).dir.trans hdir)] at hflush
  injection hflush with hflush
  subst hflush
  obtain ⟨pad, hbits⟩ := flushed_stream_words ((Channel.ok_of_write hdir).1 hok) hcur hclear hws
  rw [← harg] at hbits hlow hhigh
  have hstream : u.chan.unread = vlCode u.arg0.toNat s.arg0
      ++ (List.replicate pad false ++ (listedWords more).flatMap wordBits) := by
    rw [Channel.unread_of_zero hucur, hanswers, listedWords_append, List.flatMap_append, hbits, List.append_assoc]
  obtain ⟨d, hexec, htook⟩ := exec_bcRnum_vlCode hudir (by simp [hucur]) huerr hlow hhigh hstream
  exact ⟨_, hexec, rfl, htook.err⟩

/-! ## With ERR set (41_bitchannel.md R160) -/

theorem bufferOk_of_le {p : Params} {start n : Word} (h : start.toNat + n.toNat ≤ 2 ^ p.aw) : bufferOk p start n = true :=
  decide_eq_true h

theorem withSession_chan (s : State) : s.withSession s.chan = { s with busy := false } := rfl

theorem exec_cxWhdr_of_err (hset : s.chan.err ≠ .clear) (hdir : s.chan.dir = .write) :
    exec .cxWhdr s = .next { s with busy := false } := by
  change execCxWhdr s = _
  rw [execCxWhdr, if_neg (not_not.2 hdir), if_pos hset]
  rfl

theorem exec_cxRhdr_of_err (hset : s.chan.err ≠ .clear) (hdir : s.chan.dir = .read) :
    exec .cxRhdr s = .next { s with busy := false } := by
  change execCxRhdr s = _
  rw [execCxRhdr, if_neg (not_not.2 hdir), if_pos hset]
  rfl

theorem exec_cxCompress_of_err (hset : s.chan.err ≠ .clear) (hdir : s.chan.dir = .write)
    (hbuf : s.arg0.toNat + s.arg1.toNat ≤ 2 ^ s.param.aw) : exec .cxCompress s
      = .next { s with chan := s.chan.close, res0 := s.chan.words, res1 := 0#64, busy := false } := by
  change execCxCompress s = _
  rw [execCxCompress, if_neg (not_not.2 hdir), if_neg (by simp [bufferOk_of_le hbuf]), compress, if_pos hset]
  rfl

theorem exec_cxDecompress_of_err (hset : s.chan.err ≠ .clear) (hdir : s.chan.dir = .read)
    (hbuf : s.arg0.toNat + s.arg1.toNat ≤ 2 ^ s.param.aw) : exec .cxDecompress s
      = .next { s with chan := s.chan.close, res0 := 0#64, busy := false } := by
  change execCxDecompress s = _
  rw [execCxDecompress, if_neg (not_not.2 hdir), if_neg (by simp [bufferOk_of_le hbuf]), decompress, if_pos hset]
  rfl

/-- Settles O22: each primitive of a session stops at once when an error is set. -/
theorem stickyErrorShortCircuits : Obligations.StickyErrorShortCircuits := by
  intro s hset
  refine ⟨fun hdir => ⟨?_, fun hn => ?_, fun hlow hhigh => ?_, ?_, exec_cxWhdr_of_err hset hdir,
      exec_cxCompress_of_err hset hdir⟩,
    fun hdir => ⟨?_, fun hn => ?_, fun hlow hhigh => ?_, exec_cxRhdr_of_err hset hdir, exec_cxDecompress_of_err hset hdir⟩⟩
  · rw [exec_bcWbit hdir, writeBit_of_err hset, withSession_chan]
  · rw [exec_bcWbits hdir hn, writeStream_of_err hset, withSession_chan]
  · rw [exec_bcWnum hdir hlow hhigh, writeStream_of_err hset, withSession_chan]
  · rw [exec_bcFlush hdir, flush_of_err hset, withSession_chan]
  · rw [exec_bcRbit hdir, readBit_of_err hset]; rfl
  · rw [exec_bcRbits hdir hn, readBits_of_err hset, if_pos hset]; rfl
  · rw [exec_bcRnum hdir hlow hhigh, readNumber_of_err hset]; rfl

end Commands
end Sys2Proof.Machine
end

section
/-! `DecodeToken` (42_codec.md R175) on a stream that begins with a token's code, with a number out of range, or with a token cut off
by a failed read. -/
namespace Sys2Proof.Machine

/-! ## Listed answers that end in a failure -/

/-- The words listed end in a failed read. -/
def FailsAfter (answers : List ReadAnswer) : Prop :=
  ∃ (ws : List Word) (more : List ReadAnswer), answers = ws.map .word ++ .fail :: more

section Cut
variable {base : Nat} {as ws : List Word} {b : Word} {part tail bits rest : List Bool} {c d : Channel}

theorem FailsAfter.of_append {answers : List ReadAnswer} (h : FailsAfter (ws.map .word ++ answers)) : FailsAfter answers := by
  induction ws with
  | nil => exact h
  | cons w ws ih =>
    obtain ⟨vs, more, hvs⟩ := h
    cases vs with
    | nil => injection hvs with hhead _; cases hhead
    | cons v vs =>
      injection hvs with _ htail
      exact ih ⟨vs, more, htail⟩

theorem Channel.Took.failsAfter (h : c.Took bits d) (hc : FailsAfter c.port.readAnswers) : FailsAfter d.port.readAnswers := by
  obtain ⟨ws, hdrew⟩ := h.drew
  rw [hdrew.answers] at hc
  exact hc.of_append

/-! ## A number cut off -/

/-- The stream ends within a chunk and its continuation bit. -/
theorem cutNumber_of_chunk {t : Bool} (hfit : ChunksFit base (as ++ [b])) (hsh : as.length * base < 64)
    (htail : tail ≠ []) (h : lowBits b base ++ [t] = part ++ tail) : CutNumber base (contChunks base as ++ part) := by
  refine ⟨as, part, hfit.init, hsh, rfl, ?_⟩
  have hlen := congrArg List.length h
  have hpos := List.length_pos_iff.2 htail
  simp only [List.length_append, lowBits_length, List.length_singleton] at hlen
  rcases Nat.lt_or_ge part.length base with hshort | hlong
  · exact .inl hshort
  · exact .inr ⟨b, hfit, (List.append_inj_left h (by rw [lowBits_length]; omega)).symm⟩

/-- The stream ends within the chunks of a number. -/
theorem cutNumber_of_chunks {t : Bool} (hbase : 1 ≤ base) (hfit : ChunksFit base (as ++ [b])) (hsh : as.length * base < 64)
    (htail : tail ≠ []) (h : contChunks base as ++ (lowBits b base ++ [t]) = part ++ tail) : CutNumber base part := by
  induction as using List.reverseRecOn generalizing b t tail with
  | nil => exact cutNumber_of_chunk hfit hsh htail h
  | append_singleton as a ih =>
    rcases List.append_eq_append_iff.1 h with ⟨within, rfl, hwithin⟩ | ⟨more, hmore, -⟩
    · exact cutNumber_of_chunk hfit hsh htail hwithin
    · by_cases hnil : more = []
      · rw [hnil, List.append_nil] at hmore
        exact ⟨_, [], hfit.init, hsh, by rw [hmore, List.append_nil], .inl hbase⟩
      · rw [contChunks_concat] at hmore
        refine ih hfit.init ?_ hnil hmore
        rw [List.length_append, Nat.add_mul] at hsh
        omega

/-- The stream ends within the code of a number. -/
theorem cutNumber_of_vlCode {v : Word} (hbase : 1 ≤ base) (htail : tail ≠ []) (h : vlCode base v = part ++ tail) :
    CutNumber base part := by
  obtain ⟨as, b, hcode⟩ := exists_numberCode hbase v
  rw [hcode.code, List.append_assoc] at h
  exact cutNumber_of_chunks hbase hcode.fit hcode.shift_lt htail h

end Cut

/-! ## The parts of a token -/

section Token
variable {base : Nat} {bits rest part tail : List Bool} {c d e : Channel} {high b : Byte} {pos len : Word} {t : Token}

/-! `DecodeToken` by the first bits it reads (42_codec.md R175). -/

theorem decodeToken_low (h : readBit c = (false, d)) : decodeToken base c = decodeLiteral 0x00#8 d := by
  simp [decodeToken, h]

theorem decodeToken_high (h : readBit c = (true, d)) (h' : readBit d = (false, e)) (he : e.err = .clear) :
    decodeToken base c = decodeLiteral 0x80#8 e := by
  simp [decodeToken, h, h', he]

theorem decodeToken_match (h : readBit c = (true, d)) (h' : readBit d = (true, e)) (he : e.err = .clear) :
    decodeToken base c = decodeMatch base e := by
  simp [decodeToken, h, h', he]

theorem decodeToken_second_failed {x : Bool} (h : readBit c = (true, d)) (h' : readBit d = (x, e)) (he : e.err ≠ .clear) :
    decodeToken base c = (none, e) := by
  simp [decodeToken, h, h', he]

theorem decodeLiteral_of_err (h : c.err ≠ .clear) (high : Byte) : decodeLiteral high c = (none, c) := by
  simp [decodeLiteral, readBits_of_err h, h]

theorem decodeMatch_of_err (h : readNumber base c = (pos, d)) (hd : d.err ≠ .clear) : decodeMatch base c = (none, d) := by
  simp [decodeMatch, h, readNumber_of_err hd, hd]

theorem decodeLiteral_some_or_err (high : Byte) (c : Channel) :
    (decodeLiteral high c).1 ≠ none ∨ (decodeLiteral high c).2.err ≠ .clear := by
  unfold decodeLiteral
  generalize readBits 7 c = q
  dsimp only
  split
  next hset => exact .inr hset
  next => exact .inl (Option.some_ne_none _)

theorem decodeMatch_some_or_err (base : Nat) (c : Channel) :
    (decodeMatch base c).1 ≠ none ∨ (decodeMatch base c).2.err ≠ .clear := by
  unfold decodeMatch
  dsimp only
  generalize readNumber base (readNumber base c).2 = q
  split
  next hset => exact .inr hset
  next => exact .inl (Option.some_ne_none _)

/-- `DecodeToken` gives no token only with ERR set (42_codec.md R175). -/
theorem decodeToken_some_or_err (base : Nat) (c : Channel) :
    (decodeToken base c).1 ≠ none ∨ (decodeToken base c).2.err ≠ .clear := by
  unfold decodeToken
  dsimp only
  split
  · exact decodeLiteral_some_or_err _ _
  split
  next hset => exact .inr hset
  split
  · exact decodeLiteral_some_or_err _ _
  · exact decodeMatch_some_or_err _ _

/-! ## Token codes -/

theorem code_literal_low (base : Nat) (hb : b.toNat < 0x80) :
    (Token.literal b).code base = false :: lowBits (b.setWidth 64) 7 := by
  simp [Token.code, hb]

theorem code_literal_high (base : Nat) (hb : ¬ b.toNat < 0x80) :
    (Token.literal b).code base = true :: false :: lowBits (b.setWidth 64) 7 := by
  simp [Token.code, hb]

theorem code_backRef (base : Nat) (pos len : Word) :
    (Token.backRef pos len).code base = true :: true :: (vlCode base pos ++ vlCode base len) := by
  simp [Token.code]

/-- The low 7 bits of a byte and its high bit (42_codec.md R175). -/
theorem literal_of_low_bits {v : Word} (hv : v.toNat = b.toNat % 2 ^ 7) :
    (if b.toNat < 0x80 then 0x00#8 else 0x80#8) ||| v.setWidth 8 = b := by
  have hb := b.isLt
  refine BitVec.eq_of_toNat_eq ?_
  split
  next hlow =>
    rw [BitVec.toNat_or, BitVec.toNat_setWidth, hv]
    simp only [BitVec.toNat_ofNat, Nat.zero_mod, Nat.zero_or]
    omega
  next hhigh =>
    have hor := Nat.two_pow_add_eq_or_of_lt (i := 7) (Nat.mod_lt b.toNat (by decide)) 1
    rw [BitVec.toNat_or, BitVec.toNat_setWidth, hv, Nat.mod_eq_of_lt (a := b.toNat % 2 ^ 7) (by omega)]
    exact hor.symm.trans (by omega)

theorem decodeLiteral_takes (herr : c.err = .clear) (hcur : c.cursor.toNat < 64)
    (hs : c.unread = lowBits (b.setWidth 64) 7 ++ rest) :
    ∃ d, decodeLiteral (if b.toNat < 0x80 then 0x00#8 else 0x80#8) c = (some (.literal b), d)
      ∧ c.Took (lowBits (b.setWidth 64) 7) d := by
  obtain ⟨d, hd, hvalue, htook⟩ := readBits_takes herr hcur (lowBits_length _ 7) (by decide) hs
  rw [bitsValue_lowBits, BitVec.toNat_setWidth, Nat.mod_eq_of_lt (Nat.lt_trans b.isLt (by decide))] at hvalue
  refine ⟨d, ?_, htook⟩
  rw [decodeLiteral, hd, if_neg (not_not.2 htook.err), literal_of_low_bits hvalue]

theorem decodeMatch_takes (hbase : 1 ≤ base) (hmax : base ≤ 64) (herr : c.err = .clear) (hcur : c.cursor.toNat < 64)
    (hs : c.unread = vlCode base pos ++ vlCode base len ++ rest) :
    ∃ d, decodeMatch base c = (some (.backRef pos len), d) ∧ c.Took (vlCode base pos ++ vlCode base len) d := by
  rw [List.append_assoc] at hs
  obtain ⟨d, hd, htook⟩ := readNumber_takes_vlCode hbase hmax herr hcur hs
  obtain ⟨e, he, htook'⟩ := readNumber_takes_vlCode hbase hmax htook.err htook.cursor (htook.unread hs)
  exact ⟨e, by simp [decodeMatch, hd, he, htook'.err], htook.trans htook'⟩

/-- The two bits that a stream begins with. -/
theorem read_two {x y : Bool} (herr : c.err = .clear) (hcur : c.cursor.toNat < 64) (hs : c.unread = x :: y :: rest) :
    ∃ d e, readBit c = (x, d) ∧ readBit d = (y, e) ∧ c.Took [x, y] e := by
  obtain ⟨d, hd, hx, -⟩ := readBit_takes herr hcur hs
  obtain ⟨e, he, hy, -⟩ := readBit_takes hx.err hx.cursor (hx.unread hs)
  exact ⟨d, e, hd, he, hx.trans hy⟩

/-- `DecodeToken` reads the code of a token as the token (42_codec.md R174, R175). -/
theorem decodeToken_takes (hbase : 1 ≤ base) (hmax : base ≤ 64) (herr : c.err = .clear) (hcur : c.cursor.toNat < 64)
    (hs : c.unread = t.code base ++ rest) : ∃ d, decodeToken base c = (some t, d) ∧ c.Took (t.code base) d := by
  cases t with
  | literal b =>
    by_cases hb : b.toNat < 0x80
    · rw [code_literal_low base hb] at hs ⊢
      obtain ⟨d, hd, hx, -⟩ := readBit_takes herr hcur hs
      obtain ⟨e, he, htook⟩ := decodeLiteral_takes hx.err hx.cursor (hx.unread hs)
      rw [if_pos hb] at he
      exact ⟨e, by rw [decodeToken_low hd, he], hx.trans htook⟩
    · rw [code_literal_high base hb] at hs ⊢
      obtain ⟨d, e, hd, he, hxy⟩ := read_two herr hcur hs
      obtain ⟨f, hf, htook⟩ := decodeLiteral_takes hxy.err hxy.cursor (hxy.unread hs)
      rw [if_neg hb] at hf
      exact ⟨f, by rw [decodeToken_high hd he hxy.err, hf], hxy.trans htook⟩
  | backRef pos len =>
    rw [code_backRef] at hs ⊢
    obtain ⟨d, e, hd, he, hxy⟩ := read_two herr hcur hs
    obtain ⟨f, hf, htook⟩ := decodeMatch_takes hbase hmax hxy.err hxy.cursor (hxy.unread hs)
    exact ⟨f, by rw [decodeToken_match hd he hxy.err, hf], hxy.trans htook⟩

/-! ## A number out of range -/

/-- A match one of whose numbers is out of range gives no token (41_bitchannel.md R146). -/
theorem decodeToken_refuses (hbase : 1 ≤ base) (hmax : base ≤ 64) (herr : c.err = .clear) (hcur : c.cursor.toNat < 64)
    (hnumber : OverflowingChunk base bits rest ∨ ExcessContinuation base bits rest)
    (hs : c.unread = [true, true] ++ bits ∨ ∃ pos, c.unread = [true, true] ++ vlCode base pos ++ bits) :
    ∃ d, decodeToken base c = (none, d) ∧ d.err = .invalidParameter := by
  rcases hs with hs | ⟨pos, hs⟩
  · obtain ⟨d, e, hd, he, hxy⟩ := read_two herr hcur hs
    rw [← hxy.unread hs] at hnumber
    obtain ⟨f, hf, href⟩ := readNumber_refuses hbase hmax hxy.err hxy.cursor hnumber
    exact ⟨f, by rw [decodeToken_match hd he hxy.err, decodeMatch_of_err hf (by rw [href.err]; decide)], href.err⟩
  · rw [List.append_assoc] at hs
    obtain ⟨d, e, hd, he, hxy⟩ := read_two herr hcur hs
    obtain ⟨f, hf, htook⟩ := readNumber_takes_vlCode hbase hmax hxy.err hxy.cursor (hxy.unread hs)
    rw [← htook.unread (hxy.unread hs)] at hnumber
    obtain ⟨g, hg, href⟩ := readNumber_refuses hbase hmax htook.err htook.cursor hnumber
    refine ⟨g, ?_, href.err⟩
    rw [decodeToken_match hd he hxy.err]
    simp [decodeMatch, hf, hg, href.err]

/-! ## A token cut off -/

section Fails
variable (hbase : 1 ≤ base) (hmax : base ≤ 64) (herr : c.err = .clear) (hcur : c.cursor.toNat < 64)
  (ha : FailsAfter c.port.readAnswers)
include herr hcur ha

theorem readBit_fails (hs : c.unread = []) : ∃ d, readBit c = (false, d) ∧ d.err = .ioFailure := by
  obtain ⟨ws, more, ha⟩ := ha
  obtain ⟨d, hd, hout⟩ := (Channel.Took.refl herr hcur).readBit_runs_out hs ha
  exact ⟨d, hd, hout.err⟩

theorem decodeLiteral_fails (hs : c.unread.length < 7) (high : Byte) :
    ∃ d, decodeLiteral high c = (none, d) ∧ d.err = .ioFailure := by
  obtain ⟨ws, more, ha⟩ := ha
  obtain ⟨d, hd, hout⟩ := (Channel.Took.refl herr hcur).readBits_runs_out (List.nil_append _).symm hs (by decide) ha
  exact ⟨d, by rw [decodeLiteral, hd]; exact if_pos hout.err_ne, hout.err⟩

theorem decodeToken_fails_at_once (hs : c.unread = []) :
    ∃ d, decodeToken base c = (none, d) ∧ d.err = .ioFailure := by
  obtain ⟨d, hd, hio⟩ := readBit_fails herr hcur ha hs
  exact ⟨d, by rw [decodeToken_low hd, decodeLiteral_of_err (by rw [hio]; decide)], hio⟩

/-- A low literal cut off. -/
theorem decodeToken_fails_low {v : Word} (htail : tail ≠ []) (hs : false :: lowBits v 7 = c.unread ++ tail) :
    ∃ d, decodeToken base c = (none, d) ∧ d.err = .ioFailure := by
  cases hunread : c.unread with
  | nil => exact decodeToken_fails_at_once herr hcur ha hunread
  | cons x part =>
    rw [hunread, List.cons_append, List.cons.injEq] at hs
    obtain ⟨rfl, hbits⟩ := hs
    obtain ⟨d, hd, hx, -⟩ := readBit_takes herr hcur hunread
    have hlen := congrArg List.length hbits
    have hpos := List.length_pos_iff.2 htail
    rw [List.length_append, lowBits_length] at hlen
    obtain ⟨e, he, hio⟩ := decodeLiteral_fails hx.err hx.cursor (hx.failsAfter ha)
      (by rw [hx.unread (rest := part) hunread]; omega) 0x00#8
    exact ⟨e, by rw [decodeToken_low hd, he], hio⟩

/-- A token whose code begins with a one bit, cut off: what follows its second bit decides. -/
theorem decodeToken_fails_of_body {y : Bool} {body : List Bool} {reader : Channel → Option Token × Channel}
    (hreader : ∀ d e, readBit c = (true, d) → readBit d = (y, e) → e.err = .clear → decodeToken base c = reader e)
    (hbody : ∀ e : Channel, e.err = .clear → e.cursor.toNat < 64 → FailsAfter e.port.readAnswers →
      body = e.unread ++ tail →
      ∃ f, reader e = (none, f) ∧ f.err = .ioFailure)
    (hs : true :: y :: body = c.unread ++ tail) : ∃ d, decodeToken base c = (none, d) ∧ d.err = .ioFailure := by
  cases hunread : c.unread with
  | nil => exact decodeToken_fails_at_once herr hcur ha hunread
  | cons x bits =>
    rw [hunread, List.cons_append, List.cons.injEq] at hs
    obtain ⟨rfl, hbits⟩ := hs
    cases bits with
    | nil =>
      obtain ⟨d, hd, hx, -⟩ := readBit_takes herr hcur hunread
      obtain ⟨e, he, hio⟩ := readBit_fails hx.err hx.cursor (hx.failsAfter ha) (hx.unread hunread)
      exact ⟨e, decodeToken_second_failed hd he (by rw [hio]; decide), hio⟩
    | cons z part =>
      rw [List.cons_append, List.cons.injEq] at hbits
      obtain ⟨rfl, hpart⟩ := hbits
      obtain ⟨d, e, hd, he, hxy⟩ := read_two herr hcur hunread
      rw [← hxy.unread (rest := part) hunread] at hpart
      obtain ⟨f, hf, hio⟩ := hbody e hxy.err hxy.cursor (hxy.failsAfter ha) hpart
      exact ⟨f, by rw [hreader d e hd he hxy.err, hf], hio⟩

include hbase hmax

theorem readNumber_fails (htail : tail ≠ []) (hs : vlCode base pos = c.unread ++ tail) :
    ∃ d, readNumber base c = (0#64, d) ∧ d.err = .ioFailure := by
  obtain ⟨ws, more, ha⟩ := ha
  obtain ⟨d, hd, hout⟩ := readNumber_runs_out hbase hmax herr hcur (cutNumber_of_vlCode hbase htail hs) ha
  exact ⟨d, hd, hout.err⟩

theorem decodeMatch_fails (htail : tail ≠ []) (hs : vlCode base pos ++ vlCode base len = c.unread ++ tail) :
    ∃ d, decodeMatch base c = (none, d) ∧ d.err = .ioFailure := by
  have second_fails : ∀ part, c.unread = vlCode base pos ++ part → vlCode base len = part ++ tail →
      ∃ d, decodeMatch base c = (none, d) ∧ d.err = .ioFailure := by
    intro part hpart hlen
    obtain ⟨d, hd, htook⟩ := readNumber_takes_vlCode hbase hmax herr hcur hpart
    rw [← htook.unread hpart] at hlen
    obtain ⟨e, he, hio⟩ := readNumber_fails hbase hmax htook.err htook.cursor (htook.failsAfter ha) htail hlen
    exact ⟨e, by simp [decodeMatch, hd, he, hio], hio⟩
  rcases List.append_eq_append_iff.1 hs with ⟨part, hpart, hlen⟩ | ⟨rest, hpos, hlen⟩
  · exact second_fails part hpart hlen
  · by_cases hnil : rest = []
    · subst hnil
      exact second_fails [] (by rw [hpos, List.append_nil, List.append_nil]) hlen.symm
    · obtain ⟨d, hd, hio⟩ := readNumber_fails hbase hmax herr hcur ha hnil hpos
      exact ⟨d, decodeMatch_of_err hd (by rw [hio]; decide), hio⟩

/-- A token whose code the stream ends within gives no token, and IOFailure (42_codec.md R175). -/
theorem decodeToken_fails (htail : tail ≠ []) (hs : t.code base = c.unread ++ tail) :
    ∃ d, decodeToken base c = (none, d) ∧ d.err = .ioFailure := by
  cases t with
  | literal b =>
    by_cases hb : b.toNat < 0x80
    · rw [code_literal_low base hb] at hs
      exact decodeToken_fails_low herr hcur ha htail hs
    · rw [code_literal_high base hb] at hs
      refine decodeToken_fails_of_body herr hcur ha (fun _ _ h h' he => decodeToken_high h h' he)
        (fun e heerr hecur hea hpart => ?_) hs
      have hlen := congrArg List.length hpart
      have hpos := List.length_pos_iff.2 htail
      rw [List.length_append, lowBits_length] at hlen
      exact decodeLiteral_fails heerr hecur hea (by omega) 0x80#8
  | backRef pos len =>
    rw [code_backRef] at hs
    exact decodeToken_fails_of_body herr hcur ha (fun _ _ h h' he => decodeToken_match h h' he)
      (fun e heerr hecur hea hpart => decodeMatch_fails hbase hmax heerr hecur hea htail hpart) hs

end Fails

end Token
end Sys2Proof.Machine
end

section
/-! CX.DECOMPRESS (42_codec.md R183): what every run of its token loop keeps, the tokens a stream begins with, the way the stream
ends, and the header. -/
namespace Sys2Proof.Machine

/-! ## One round -/

/-- The decoder after a token it accepts. -/
def Decoded.after (dst : Nat) (t : Token) (c : Channel) (d : Decoded) : Decoded :=
  { i := cursorAfter d.i [t], mem := memAfter dst d.i [t] d.mem, chan := c }

/-- The token may stand at output cursor `i` (42_codec.md R176). -/
def Token.ValidAt (nh window i : Nat) : Token → Prop
  | .literal _ => True
  | .backRef pos len => ValidMatch nh window i pos.toNat len.toNat

section Round
variable {dst nh window base fuel i : Nat} {d : Decoded} {c : Channel} {t : Token} {ts : List Token} {m : Memory}

theorem memAfter_cons (dst i : Nat) (t : Token) (ts : List Token) (m : Memory) :
    memAfter dst i (t :: ts) m = memAfter dst (cursorAfter i [t]) ts (memAfter dst i [t] m) := by cases t <;> rfl

theorem validTokens_cons :
    ValidTokens nh window i (t :: ts) ↔ i < nh ∧ t.ValidAt nh window i ∧ ValidTokens nh window (cursorAfter i [t]) ts := by
  cases t with
  | literal b => simp [ValidTokens, Token.ValidAt, cursorAfter]
  | backRef pos len => rfl

/-- A valid token moves the output cursor forward, not beyond the declared count. -/
theorem Token.ValidAt.cursorAfter (h : t.ValidAt nh window i) (hi : i < nh) :
    i < cursorAfter i [t] ∧ cursorAfter i [t] ≤ nh := by
  cases t with
  | literal b => exact ⟨Nat.lt_succ_self i, hi⟩
  | backRef pos len =>
    obtain ⟨-, -, hpos, -, hlen⟩ := h
    simp only [Machine.cursorAfter]
    omega

/-- A token writes the bytes between the two output cursors only (42_codec.md R177). -/
theorem memAfter_outside {a : Nat} (ha : a < dst + i ∨ dst + cursorAfter i [t] ≤ a) :
    (memAfter dst i [t] m).byte a = m.byte a := by
  cases t with
  | literal b => exact Memory.byte_write_other m b (by simp only [cursorAfter] at ha; omega)
  | backRef pos len =>
    simp only [cursorAfter] at ha
    exact byte_copyMatch_outside (by omega)

theorem decompressLoop_stopped (h : ¬ (d.i < nh ∧ d.chan.err = .clear)) :
    decompressLoop dst nh window base fuel d = d := by
  cases fuel with
  | zero => rfl
  | succ fuel => rw [decompressLoop, if_neg h]

section Running
variable (hi : d.i < nh) (he : d.chan.err = .clear)
include hi he

theorem decompressLoop_no_token (ht : decodeToken base d.chan = (none, c)) :
    decompressLoop dst nh window base (fuel + 1) d = { d with chan := c } := by
  rw [decompressLoop, if_pos ⟨hi, he⟩, ht]

theorem decompressLoop_valid (ht : decodeToken base d.chan = (some t, c)) (hv : t.ValidAt nh window d.i) :
    decompressLoop dst nh window base (fuel + 1) d = decompressLoop dst nh window base fuel (d.after dst t c) := by
  rw [decompressLoop, if_pos ⟨hi, he⟩, ht]
  cases t with
  | literal b => rfl
  | backRef pos len => exact if_pos ((validMatch_iff _ _ _ _ _).2 hv)

theorem decompressLoop_invalid (ht : decodeToken base d.chan = (some t, c)) (hv : ¬ t.ValidAt nh window d.i) :
    decompressLoop dst nh window base (fuel + 1) d = { d with chan := c.setErr .invalidParameter } := by
  rw [decompressLoop, if_pos ⟨hi, he⟩, ht]
  cases t with
  | literal b => exact absurd trivial hv
  | backRef pos len => exact if_neg fun h => hv ((validMatch_iff _ _ _ _ _).1 h)

end Running

/-- What a round can do: the loop has stopped, or it stops in this round with ERR set, or it goes on after a valid token. -/
theorem decompressLoop_cases :
    (¬ (d.i < nh ∧ d.chan.err = .clear) ∧ decompressLoop dst nh window base (fuel + 1) d = d)
      ∨ (d.i < nh ∧ ∃ c, decompressLoop dst nh window base (fuel + 1) d = { d with chan := c } ∧ c.err ≠ .clear)
      ∨ (d.i < nh ∧ ∃ t c, t.ValidAt nh window d.i
          ∧ decompressLoop dst nh window base (fuel + 1) d = decompressLoop dst nh window base fuel (d.after dst t c)) := by
  by_cases hround : d.i < nh ∧ d.chan.err = .clear
  · obtain ⟨hi, he⟩ := hround
    right
    cases ht : decodeToken base d.chan with
    | mk token c =>
      cases token with
      | none =>
        have hset := (decodeToken_some_or_err base d.chan).resolve_left (by simp [ht])
        rw [ht] at hset
        exact .inl ⟨hi, c, decompressLoop_no_token hi he ht, hset⟩
      | some t =>
        by_cases hv : t.ValidAt nh window d.i
        · exact .inr ⟨hi, t, c, hv, decompressLoop_valid hi he ht hv⟩
        · refine .inl ⟨hi, _, decompressLoop_invalid hi he ht hv, ?_⟩
          unfold Channel.setErr
          split
          · simp
          next hset => exact hset
  · exact .inl ⟨hround, decompressLoop_stopped hround⟩

/-! ## Every run of the loop -/

/-- The token loop writes the bytes it produces only. -/
theorem decompressLoop_outside {a : Nat} (hd : d.i ≤ nh)
    (ha : a < dst + d.i ∨ dst + (decompressLoop dst nh window base fuel d).i ≤ a) :
    (decompressLoop dst nh window base fuel d).mem.byte a = d.mem.byte a := by
  induction fuel generalizing d with
  | zero => rfl
  | succ fuel ih =>
    rcases decompressLoop_cases (dst := dst) (nh := nh) (window := window) (base := base) (fuel := fuel) (d := d) with
      ⟨-, h⟩ | ⟨-, c, h, -⟩ | ⟨hi, t, c, hv, h⟩
    · rw [h]
    · rw [h]
    · rw [h] at ha ⊢
      obtain ⟨hlt, hle⟩ := hv.cursorAfter hi
      have hmono := (decompressLoop_cursor dst nh window base fuel (d := d.after dst t c) hle).1
      have hafter : (d.after dst t c).i = cursorAfter d.i [t] := rfl
      rw [ih hle (by omega)]
      exact memAfter_outside (by omega)

/-- A run that ends with ERR clear has produced the declared count. -/
theorem decompressLoop_complete (hd : d.i ≤ nh) (hfuel : nh - d.i ≤ fuel)
    (hclear : (decompressLoop dst nh window base fuel d).chan.err = .clear) :
    (decompressLoop dst nh window base fuel d).i = nh := by
  induction fuel generalizing d with
  | zero => simp only [decompressLoop]; omega
  | succ fuel ih =>
    rcases decompressLoop_cases (dst := dst) (nh := nh) (window := window) (base := base) (fuel := fuel) (d := d) with
      ⟨hstop, h⟩ | ⟨-, c, h, hset⟩ | ⟨hi, t, c, hv, h⟩
    · rw [h] at hclear ⊢
      exact le_antisymm hd (Nat.le_of_not_lt fun hlt => hstop ⟨hlt, hclear⟩)
    · rw [h] at hclear
      exact absurd hclear hset
    · rw [h] at hclear ⊢
      obtain ⟨hlt, hle⟩ := hv.cursorAfter hi
      have hafter : (d.after dst t c).i = cursorAfter d.i [t] := rfl
      exact ih hle (by omega) hclear

end Round

/-! ## The tokens of a stream -/

section Stream
variable {dst nh window base fuel : Nat} {d : Decoded} {rest : List Bool} {tokens : List Token}
  {answers : List ReadAnswer} {e : Err}
variable (hbase : 1 ≤ base) (hmax : base ≤ 64) (herr : d.chan.err = .clear) (hcur : d.chan.cursor.toNat < 64)
include hbase hmax herr hcur

/-- The valid tokens that the stream begins with are decoded in turn. -/
theorem decompressLoop_tokens (hv : ValidTokens nh window d.i tokens) (hfuel : nh - d.i ≤ fuel)
    (hs : d.chan.unread = tokenBits base tokens ++ rest) :
    ∃ left c, decompressLoop dst nh window base fuel d
        = decompressLoop dst nh window base left ⟨cursorAfter d.i tokens, memAfter dst d.i tokens d.mem, c⟩
      ∧ nh - cursorAfter d.i tokens ≤ left ∧ d.chan.Took (tokenBits base tokens) c := by
  induction tokens generalizing d fuel with
  | nil => exact ⟨fuel, d.chan, rfl, hfuel, .refl herr hcur⟩
  | cons t tokens ih =>
    obtain ⟨hi, hvt, hvs⟩ := validTokens_cons.1 hv
    obtain ⟨hlt, -⟩ := hvt.cursorAfter hi
    rw [tokenBits_cons, List.append_assoc] at hs
    obtain ⟨c, hc, htook⟩ := decodeToken_takes hbase hmax herr hcur hs
    obtain ⟨f, rfl⟩ : ∃ f, fuel = f + 1 := ⟨fuel - 1, by omega⟩
    obtain ⟨left, c', hloop, hleft, htook'⟩ := ih (d := d.after dst t c) (fuel := f) htook.err htook.cursor hvs
      (by change nh - cursorAfter d.i [t] ≤ f; omega) (htook.unread hs)
    refine ⟨left, c', ?_, ?_, ?_⟩
    · rw [decompressLoop_valid hi herr hc hvt, hloop, cursorAfter_cons d.i t tokens, memAfter_cons dst d.i t tokens]
      rfl
    · rw [cursorAfter_cons]; exact hleft
    · rw [tokenBits_cons]; exact htook.trans htook'

/-- How the loop ends at the end of the stream (42_codec.md R183). -/
theorem decompressLoop_ends (hfuel : nh - d.i ≤ fuel) (hs : d.chan.unread = rest)
    (hfails : FailsAfter answers → FailsAfter d.chan.port.readAnswers)
    (hend : StreamEnds base nh window d.i answers rest e) :
    ∃ c, decompressLoop dst nh window base fuel d = { d with chan := c } ∧ c.err = e ∧ (e = .clear → c.unread = rest) := by
  cases e with
  | clear =>
    have hcount : d.i = nh := hend
    exact ⟨d.chan, decompressLoop_stopped (by omega), herr, fun _ => hs⟩
  | invalidParameter =>
    obtain ⟨hi, rest', hrest⟩ := hend
    obtain ⟨f, rfl⟩ : ∃ f, fuel = f + 1 := ⟨fuel - 1, by omega⟩
    rw [← hs] at hrest
    rcases hrest with ⟨pos, len, hcode, hv⟩ | ⟨bits, hnumber, hbits⟩
    · obtain ⟨c, hc, htook⟩ := decodeToken_takes hbase hmax herr hcur hcode
      exact ⟨_, decompressLoop_invalid hi herr hc hv, Channel.setErr_of_clear htook.err _, fun h => nomatch h⟩
    · obtain ⟨c, hc, hinvalid⟩ := decodeToken_refuses hbase hmax herr hcur hnumber hbits
      exact ⟨c, decompressLoop_no_token hi herr hc, hinvalid, fun h => nomatch h⟩
  | ioFailure =>
    obtain ⟨hi, ⟨t, tail, htail, hcode⟩, ws, more, ha⟩ := hend
    obtain ⟨f, rfl⟩ : ∃ f, fuel = f + 1 := ⟨fuel - 1, by omega⟩
    rw [← hs] at hcode
    obtain ⟨c, hc, hio⟩ := decodeToken_fails hbase hmax herr hcur (hfails ⟨ws, more, ha⟩) htail hcode
    exact ⟨c, decompressLoop_no_token hi herr hc, hio, fun h => nomatch h⟩

end Stream

/-! ## The header -/

section Header
variable {c : Channel} {more : List ReadAnswer} {a b : Word}

/-- A read of a listed word. -/
theorem portRead_listed (he : c.err = .clear) (ha : c.port.readAnswers = .word a :: more) :
    (portRead c).1 = a ∧ (portRead c).2.err = .clear ∧ (portRead c).2.port.readAnswers = more := by
  have hleft : (portRead c).2.port.readAnswers = more := by rw [portRead_port, Port.afterRead_readAnswers ha]
  rcases portRead_cases he with ⟨w, hw, hvalue, herr⟩ | ⟨hf, -⟩
  · rw [Port.nextRead_cons ha] at hw
    injection hw with hw
    exact ⟨hvalue.trans hw.symm, herr, hleft⟩
  · rw [Port.nextRead_cons ha] at hf; cases hf

/-- A failed read. -/
theorem portRead_failed (he : c.err = .clear) (ha : c.port.nextRead = .fail) : (portRead c).2.err = .ioFailure := by
  rcases portRead_cases he with ⟨w, hw, -⟩ | ⟨-, -, herr⟩
  · rw [ha] at hw; cases hw
  · exact herr

theorem readHeader_listed (he : c.err = .clear) (ha : c.port.readAnswers = .word a :: .word b :: more) :
    (readHeader c).1 = some (a, b) ∧ (readHeader c).2.err = .clear ∧ (readHeader c).2.port.readAnswers = more := by
  obtain ⟨hfirst, he1, ha1⟩ := portRead_listed he ha
  obtain ⟨hsecond, he2, ha2⟩ := portRead_listed he1 ha1
  simp [readHeader, he1, he2, hfirst, hsecond, ← ha2]

theorem readHeader_failed_first (he : c.err = .clear) (ha : c.port.nextRead = .fail) :
    (readHeader c).1 = none ∧ (readHeader c).2.err = .ioFailure ∧ (readHeader c).2.words = c.words + 1#64 := by
  have hio := portRead_failed he ha
  simp [readHeader, hio]

theorem readHeader_failed_second (he : c.err = .clear) (ha : c.port.readAnswers = .word a :: .fail :: more) :
    (readHeader c).1 = none ∧ (readHeader c).2.err = .ioFailure ∧ (readHeader c).2.words = c.words + 2#64 := by
  obtain ⟨-, he1, ha1⟩ := portRead_listed he ha
  have hio := portRead_failed he1 (Port.nextRead_cons ha1)
  simp [readHeader, he1, hio, BitVec.add_assoc]

@[simp] theorem readHeader_cursor (c : Channel) : (readHeader c).2.cursor = c.cursor := by
  unfold readHeader
  dsimp only
  repeat' split
  all_goals simp

end Header

/-! ## CX.DECOMPRESS -/

/-- The session after the header of CX.DECOMPRESS (42_codec.md R183). -/
def decompressStart (s : State) : Channel := (readHeader s.chan.fresh).2

/-- The token loop of CX.DECOMPRESS in a state, for a declared count (42_codec.md R183). -/
def decompressTokens (s : State) (nh : Word) : Decoded :=
  decompressLoop s.arg0.toNat nh.toNat (2 ^ s.arg2.toNat) ((s.arg2.toNat - 4) / 2) nh.toNat
    { i := 0, mem := s.dmem, chan := decompressStart s }

/-- The next state of CX.DECOMPRESS for the header it shows and what it decoded. -/
def decompressed (s : State) (header : Option (Word × Word)) (d : Decoded) : State :=
  ((((s.setHeader header).setDmem d.mem).setChan d.chan.close).setRes0 (zext64 d.i)).finish

/-- What CX.DECOMPRESS shows of any stream: the bytes produced fit the capacity, no other byte changes, and with ERR clear the header
matched and its count is reached. -/
structure DecompressOutcome (s : State) (header : Option (Word × Word)) (d : Decoded) : Prop where
  count : d.i ≤ s.arg1.toNat
  outside : ∀ a, a < s.arg0.toNat ∨ s.arg0.toNat + d.i ≤ a → d.mem.byte a = s.dmem.byte a
  complete : d.chan.err = .clear → ∃ nh, header = some (nh, s.arg2) ∧ d.i = nh.toNat

section Decompress
variable {s : State} {nh : Word}

theorem exec_cxDecompress (hdir : s.chan.dir = .read) (hbuf : s.arg0.toNat + s.arg1.toNat ≤ 2 ^ s.param.aw) :
    exec .cxDecompress s = .next (decompressed s (decompress s.dmem s.arg0 s.arg1 s.arg2 s.chan).1
      (decompress s.dmem s.arg0 s.arg1 s.arg2 s.chan).2) := by
  change execCxDecompress s = _
  rw [execCxDecompress, if_neg (not_not.2 hdir), if_neg (by simp [bufferOk_of_le hbuf])]
  rfl

theorem decompressOutcome_of_err {header : Option (Word × Word)} {c : Channel} (h : c.err ≠ .clear) :
    DecompressOutcome s header { i := 0, mem := s.dmem, chan := c } :=
  ⟨Nat.zero_le _, fun _ _ => rfl, fun hclear => absurd hclear h⟩

section Legal
variable (herr : s.chan.err = .clear) (hlow : 10 ≤ s.arg2.toNat) (hhigh : s.arg2.toNat ≤ 20)
include herr hlow hhigh

theorem decompress_no_header (h : (readHeader s.chan.fresh).1 = none) :
    decompress s.dmem s.arg0 s.arg1 s.arg2 s.chan = (none, { i := 0, mem := s.dmem, chan := decompressStart s }) := by
  have hwb : validWB s.arg2 = true := by simp [validWB, hlow, hhigh]
  rw [decompress, if_neg (not_not.2 herr), if_neg (by simp [hwb])]
  dsimp only
  rw [h]
  rfl

theorem decompress_header {hwb : Word} (h : (readHeader s.chan.fresh).1 = some (nh, hwb)) :
    decompress s.dmem s.arg0 s.arg1 s.arg2 s.chan
      = if validWB hwb = false ∨ hwb ≠ s.arg2 ∨ s.arg1.toNat < nh.toNat then
          (some (nh, hwb), { i := 0, mem := s.dmem, chan := (decompressStart s).setErr .invalidParameter })
        else (some (nh, hwb), decompressTokens s nh) := by
  have hwb : validWB s.arg2 = true := by simp [validWB, hlow, hhigh]
  rw [decompress, if_neg (not_not.2 herr), if_neg (by simp [hwb])]
  dsimp only
  rw [h]
  rfl

theorem decompress_accepted (h : (readHeader s.chan.fresh).1 = some (nh, s.arg2)) (hcap : nh.toNat ≤ s.arg1.toNat) :
    decompress s.dmem s.arg0 s.arg1 s.arg2 s.chan = (some (nh, s.arg2), decompressTokens s nh) := by
  have hwb : validWB s.arg2 = true := by simp [validWB, hlow, hhigh]
  rw [decompress_header herr hlow hhigh h, if_neg (by simp [hwb, hcap])]

theorem decompress_outcome : DecompressOutcome s (decompress s.dmem s.arg0 s.arg1 s.arg2 s.chan).1
    (decompress s.dmem s.arg0 s.arg1 s.arg2 s.chan).2 := by
  have hfresh : s.chan.fresh.err = .clear := herr
  rcases readHeader_cases hfresh with ⟨nh, hwb, h, hclear⟩ | ⟨h, hio⟩
  · rw [decompress_header herr hlow hhigh h]
    split
    next =>
      have hinvalid := Channel.setErr_of_clear (c := decompressStart s) hclear .invalidParameter
      exact decompressOutcome_of_err (by rw [hinvalid]; decide)
    next hgood =>
      obtain ⟨-, hmatch, hcap⟩ := not_or.1 hgood |>.imp_right not_or.1
      obtain rfl : hwb = s.arg2 := not_not.1 hmatch
      exact ⟨Nat.le_trans (decompressLoop_cursor _ _ _ _ _ (Nat.zero_le _)).2 (Nat.le_of_not_lt hcap),
        fun a ha => decompressLoop_outside (Nat.zero_le _) ha,
        fun hclear => ⟨nh, rfl, decompressLoop_complete (Nat.zero_le _) (Nat.sub_le _ _) hclear⟩⟩
  · rw [decompress_no_header herr hlow hhigh h]
    exact decompressOutcome_of_err (by rw [decompressStart, hio]; decide)

/-- After a header it accepts CX.DECOMPRESS decodes the tokens of the stream and stops as the stream ends (42_codec.md R183). -/
theorem decompressTokens_ends {answers : List ReadAnswer} {tokens : List Token} {rest : List Bool} {e : Err}
    (ha : s.chan.port.readAnswers = .word nh :: .word s.arg2 :: answers)
    (hbits : (listedWords answers).flatMap wordBits = tokenBits ((s.arg2.toNat - 4) / 2) tokens ++ rest)
    (hv : ValidTokens nh.toNat (2 ^ s.arg2.toNat) 0 tokens)
    (hend : StreamEnds ((s.arg2.toNat - 4) / 2) nh.toNat (2 ^ s.arg2.toNat) (cursorAfter 0 tokens) answers rest e) :
    ∃ c, decompressTokens s nh = ⟨cursorAfter 0 tokens, memAfter s.arg0.toNat 0 tokens s.dmem, c⟩ ∧ c.err = e
      ∧ (e = .clear → c.unread = rest) := by
  have hfresh : s.chan.fresh.err = .clear := herr
  have hbase : 1 ≤ (s.arg2.toNat - 4) / 2 := by omega
  have hmax : (s.arg2.toNat - 4) / 2 ≤ 64 := by omega
  obtain ⟨-, hclear, hleft⟩ := readHeader_listed hfresh ha
  have hcur : (decompressStart s).cursor = 0#7 := readHeader_cursor s.chan.fresh
  have hstream : (decompressStart s).unread = tokenBits ((s.arg2.toNat - 4) / 2) tokens ++ rest := by
    rw [Channel.unread_of_zero hcur, decompressStart, hleft, hbits]
  obtain ⟨left, c, hloop, hleft', htook⟩ := decompressLoop_tokens (d := ⟨0, s.dmem, decompressStart s⟩)
    (dst := s.arg0.toNat) hbase hmax hclear (by simp [hcur]) hv (Nat.sub_le nh.toNat 0) hstream
  obtain ⟨c', hstop, hend'⟩ := decompressLoop_ends (dst := s.arg0.toNat) (answers := answers)
    (d := ⟨cursorAfter 0 tokens, memAfter s.arg0.toNat 0 tokens s.dmem, c⟩) hbase hmax htook.err htook.cursor hleft'
    (htook.unread hstream) (fun hf => htook.failsAfter (by rw [decompressStart, hleft]; exact hf)) hend
  exact ⟨c', hloop.trans hstop, hend'⟩

end Legal

theorem decompressed_frame (s : State) (header : Option (Word × Word)) (d : Decoded) :
    decompressed s header d = { s with
      chan := (decompressed s header d).chan, dmem := (decompressed s header d).dmem
      res0 := (decompressed s header d).res0, res1 := (decompressed s header d).res1
      res2 := (decompressed s header d).res2, busy := false } := by
  cases header <;> rfl

end Decompress

/-- Settles O50: what any stream leaves, the failed headers, and the tokens of a stream up to its end. -/
theorem decompressCompletes : Obligations.DecompressCompletes := by
  intro s hdir herr hbuf hlow hhigh
  have hfresh : s.chan.fresh.err = .clear := herr
  have hout := decompress_outcome herr hlow hhigh
  have hno := decompress_no_header herr hlow hhigh
  have haccepted := fun nh => decompress_accepted (nh := nh) herr hlow hhigh
  refine ⟨_, exec_cxDecompress hdir hbuf, decompressed_frame _ _ _, rfl, ?_⟩
  generalize decompress s.dmem s.arg0 s.arg1 s.arg2 s.chan = q at hout hno haccepted
  have hres0 : (decompressed s q.1 q.2).res0.toNat = q.2.i := by
    have hcount := hout.count
    have hcap := s.arg1.isLt
    change (zext64 q.2.i).toNat = _
    rw [zext64, BitVec.toNat_ofNat]
    omega
  rw [hres0]
  refine ⟨hout.count, hout.outside, fun hclear => ?_, fun ha => ?_, fun nh more ha => ?_,
    fun nh answers tokens rest e ha hcap hbits hv hend => ?_⟩
  · obtain ⟨nh, hheader, hi⟩ := hout.complete hclear
    rw [hheader] at hres0 ⊢
    exact ⟨BitVec.eq_of_toNat_eq (hres0.trans hi), rfl⟩
  · obtain ⟨h, hio, hwords⟩ := readHeader_failed_first hfresh ha
    rw [hno h]
    exact ⟨rfl, hio, hwords⟩
  · obtain ⟨h, hio, hwords⟩ := readHeader_failed_second hfresh ha
    rw [hno h]
    exact ⟨rfl, hio, hwords⟩
  · obtain ⟨c, hc, hend'⟩ := decompressTokens_ends herr hlow hhigh ha hbits hv hend
    rw [haccepted nh (readHeader_listed hfresh ha).1 hcap, hc]
    exact ⟨rfl, hend'⟩

end Sys2Proof.Machine
end

section
/-! The overlapping copy of a match, and the codec's round trip: the tokens that CX.COMPRESS writes put the bytes of the input
back (42_codec.md R177, R184). -/
namespace Sys2Proof.Machine

/-! ## The overlapping copy -/

section Copy
variable {m : Memory} {dst pos len i : Nat}

/-- After the copy each copied byte equals the one `pos` before it, copied or not (42_codec.md R177). -/
theorem copyMatch_period (hpos : 0 < pos) (hle : pos ≤ i) {k : Nat} (hk : k < len) :
    (copyMatch dst pos len i m).byte (dst + i + k) = (copyMatch dst pos len i m).byte (dst + i + k - pos) := by
  induction len generalizing i m k with
  | zero => exact absurd hk (Nat.not_lt_zero k)
  | succ len ih =>
    rw [copyMatch]
    cases k with
    | zero =>
      rw [byte_copyMatch_outside (by omega), byte_copyMatch_outside (by omega), Nat.add_zero, Memory.byte_write_same,
        Memory.byte_write_other _ _ (by omega)]
    | succ k =>
      have hnext := ih (m := m.write (dst + i) (m.byte (dst + i - pos))) (i := i + 1) (Nat.le_succ_of_le hle)
        (Nat.lt_of_succ_lt_succ hk)
      rwa [show dst + (i + 1) + k = dst + i + (k + 1) by omega] at hnext

/-- A sequence with period `pos` from `i` on repeats the `pos` values before `i`. -/
theorem eq_mod_of_period {f : Nat → Byte} (hpos : 0 < pos) (hle : pos ≤ i)
    (h : ∀ k, k < len → f (i + k) = f (i + k - pos)) {k : Nat} (hk : k < len) : f (i + k) = f (i - pos + k % pos) := by
  induction k using Nat.strong_induction_on with
  | _ k ih =>
    rw [h k hk]
    rcases Nat.lt_or_ge k pos with hlt | hge
    · rw [Nat.mod_eq_of_lt hlt, Nat.sub_add_comm hle]
    · rw [Nat.mod_eq_sub_mod hge, ← ih (k - pos) (by omega) (by omega), Nat.add_sub_assoc hge]

end Copy

/-- Settles O56: the copy has period `pos`, and it writes its destination only. -/
theorem matchCopyRepeatsThePrecedingBytes : Obligations.MatchCopyRepeatsThePrecedingBytes := by
  intro m dst pos len i hpos hle
  refine ⟨fun k hk => ?_, fun a ha => byte_copyMatch_outside ha⟩
  rw [eq_mod_of_period (f := (copyMatch dst pos len i m).byte) hpos (Nat.le_add_left_of_le hle)
    (fun k hk => copyMatch_period hpos hle hk) hk]
  have hmod := Nat.mod_lt k hpos
  exact byte_copyMatch_outside (by omega)

/-! ## The bytes that tokens spell -/

/-- From `dst` on DMEM holds the first `i` bytes of a buffer. -/
def Memory.HoldsFirst (get : Nat → Byte) (dst i : Nat) (m : Memory) : Prop := ∀ x, x < i → m.byte (dst + x) = get x

section Spelled
variable {get : Nat → Byte} {n window dst i : Nat} {m : Memory} {tokens : List Token}

theorem Memory.HoldsFirst.write (h : m.HoldsFirst get dst i) : (m.write (dst + i) (get i)).HoldsFirst get dst (i + 1) := by
  intro x hx
  rcases Nat.eq_or_lt_of_le (Nat.le_of_lt_succ hx) with rfl | hlt
  · exact Memory.byte_write_same m _ _
  · rw [Memory.byte_write_other m _ (by omega), h x hlt]

/-- The copy continues a buffer that repeats at distance `pos`. -/
theorem Memory.HoldsFirst.copyMatch {pos len : Nat} (h : m.HoldsFirst get dst i) (hpos : 0 < pos) (hle : pos ≤ i)
    (hget : ∀ k, k < len → get (i + k) = get (i + k - pos)) :
    (copyMatch dst pos len i m).HoldsFirst get dst (i + len) := by
  intro x hx
  induction x using Nat.strong_induction_on with
  | _ x ih =>
    rcases Nat.lt_or_ge x i with hlt | hge
    · rw [byte_copyMatch_outside (by omega), h x hlt]
    · obtain ⟨k, rfl⟩ := Nat.exists_eq_add_of_le hge
      have hk : k < len := by omega
      calc (Machine.copyMatch dst pos len i m).byte (dst + (i + k))
          = (Machine.copyMatch dst pos len i m).byte (dst + (i + k - pos)) := by
            rw [← Nat.add_sub_assoc (by omega), ← Nat.add_assoc, copyMatch_period hpos hle hk]
        _ = get (i + k - pos) := ih _ (by omega) (by omega)
        _ = get (i + k) := (hget k hk).symm

/-- Decoding the tokens that spell a buffer produces its bytes (42_codec.md R184 (c)). -/
theorem Spells.holdsFirst (h : Spells get n window i tokens) (hm : m.HoldsFirst get dst i) :
    (memAfter dst i tokens m).HoldsFirst get dst n := by
  induction tokens generalizing i m with
  | nil =>
    obtain rfl : i = n := h
    exact hm
  | cons t tokens ih =>
    cases t with
    | literal b =>
      obtain ⟨-, rfl, hrest⟩ := h
      exact ih hrest hm.write
    | backRef pos len =>
      obtain ⟨-, -, hpos, -, hle, hget, hrest⟩ := h
      exact ih hrest (hm.copyMatch hpos hle hget)

/-- The tokens that spell a buffer are valid for its length as the declared count (42_codec.md R176, R184 (a)). -/
theorem Spells.valid (h : Spells get n window i tokens) : ValidTokens n window i tokens := by
  induction tokens generalizing i with
  | nil => trivial
  | cons t tokens ih =>
    cases t with
    | literal b =>
      obtain ⟨hi, -, hrest⟩ := h
      exact ⟨hi, ih hrest⟩
    | backRef pos len =>
      obtain ⟨hlong, hlen, hpos, hnear, hle, -, hrest⟩ := h
      exact ⟨by omega, ⟨hpos, hnear, by omega, hle, hlen⟩, ih hrest⟩

/-- The tokens that spell a buffer end at its length. -/
theorem Spells.cursorAfter (h : Spells get n window i tokens) : cursorAfter i tokens = n := by
  induction tokens generalizing i with
  | nil => exact h
  | cons t tokens ih =>
    cases t with
    | literal b =>
      obtain ⟨-, -, hrest⟩ := h
      exact ih hrest
    | backRef pos len =>
      obtain ⟨-, -, -, -, -, -, hrest⟩ := h
      exact ih hrest

end Spelled

/-- Settles O54: the words written are the header and the codes of tokens that spell the input (O49), and CX.DECOMPRESS decodes
those tokens (O50) to the bytes they spell. -/
theorem codecRoundTrip : Obligations.CodecRoundTrip := by
  intro s t u ws more hdir herr hbuf hlow hhigh hexec hclear hws hudir huerr hubuf harg2 hcap hanswers
  obtain ⟨payload, tokens, pad, hwords, hbits, -, hspells, -⟩ :=
    compressWritesTokensThatSpellTheInput s t hdir herr hbuf hlow hhigh hexec hclear
  obtain rfl : ws = s.arg1 :: s.arg2 :: payload := List.append_cancel_left (hws.symm.trans hwords)
  rw [← harg2] at hanswers hbits hspells hlow hhigh
  obtain ⟨v, hv, -, -, -, -, -, -, -, hdecoded⟩ := decompressCompletes u hudir huerr hubuf hlow hhigh
  have hstream : (listedWords (payload.map .word ++ more)).flatMap wordBits
      = tokens.flatMap (Token.code ((u.arg2.toNat - 4) / 2))
        ++ (List.replicate pad false ++ (listedWords more).flatMap wordBits) := by
    rw [listedWords_append, List.flatMap_append, hbits, List.append_assoc]
  obtain ⟨hstate, hend, -⟩ := hdecoded s.arg1 _ tokens _ .clear hanswers hcap hstream hspells.valid hspells.cursorAfter
  have hres0 : v.res0 = BitVec.ofNat 64 (cursorAfter 0 tokens) := congrArg State.res0 hstate
  have hdmem : v.dmem = memAfter u.arg0.toNat 0 tokens u.dmem := congrArg State.dmem hstate
  refine ⟨v, hv, ?_, hend, fun k hk => ?_⟩
  · rw [hres0, hspells.cursorAfter, BitVec.ofNat_toNat, BitVec.setWidth_eq]
  · have hempty : u.dmem.HoldsFirst (fun k => s.byteAt (s.arg0.toNat + k)) u.arg0.toNat 0 :=
      fun x hx => absurd hx (Nat.not_lt_zero x)
    rw [State.byteAt, hdmem, hspells.holdsFirst hempty k hk]

end Sys2Proof.Machine
end

section
/-! The match search keeps the first or the last of the longest runs (42_codec.md R173), and a token is read back from its code
(R175). -/
namespace Sys2Proof.Machine

/-! ## The match search -/

section Search
variable {p : Params} {m : Memory} {src n i j k l window : Nat} {js : List Nat} {q : Nat × Nat}

theorem IsRun.le (h : IsRun m src n i j k) (h' : IsRun m src n i j l) : k ≤ l := by
  obtain ⟨hk, hagree, -⟩ := h
  obtain ⟨-, -, hend⟩ := h'
  by_contra hlt
  rcases hend with hend | hdiff
  · omega
  · exact hdiff (hagree l (Nat.lt_of_not_le hlt))

/-- A candidate has one run. -/
theorem IsRun.unique (h : IsRun m src n i j k) (h' : IsRun m src n i j l) : k = l := le_antisymm (h.le h') (h'.le h)

/-- What the search keeps after the starts `js` (42_codec.md R173): nothing while none has a run, else a longest run, at the first
or the last start with that length by MATCH_TIE. -/
structure BestRun (p : Params) (m : Memory) (src n i : Nat) (js : List Nat) (q : Nat × Nat) : Prop where
  none : q.2 = 0 → q.1 = 0
  longest : ∀ j ∈ js, ∀ k, IsRun m src n i j k → k ≤ q.2
  start : 0 < q.2 → ∃ j ∈ js, q.1 = i - j ∧ IsRun m src n i j q.2
    ∧ ∀ j' ∈ js, IsRun m src n i j' q.2 → if p.matchTie then j' ≤ j else j ≤ j'

/-- Which run replaces the best one (42_codec.md R173). -/
theorem betterRun_iff (p : Params) (k best : Nat) :
    betterRun p k best = true ↔ best < k ∨ (p.matchTie = true ∧ k = best ∧ 0 < k) := by
  unfold betterRun
  split
  next htie => simp only [htie, Bool.and_eq_true, decide_eq_true_eq, true_and]; omega
  next htie => simp [htie]

theorem BestRun.nil : BestRun p m src n i [] (0, 0) :=
  ⟨fun _ => rfl, by simp, fun h => absurd h (Nat.lt_irrefl 0)⟩

section Candidate
variable (h : BestRun p m src n i js q) (hlater : ∀ x ∈ js, x < j) (hrun : IsRun m src n i j k)
include h hlater hrun

/-- A better run at a later start takes the place of the best. -/
theorem BestRun.replace (hbetter : betterRun p k q.2 = true) : BestRun p m src n i (js ++ [j]) (i - j, k) := by
  rw [betterRun_iff] at hbetter
  refine ⟨fun hk => absurd hk (by simp only; omega), fun x hx l hl => ?_, fun _ => ?_⟩
  · rcases List.mem_append.1 hx with hx | hx
    · have hle := h.longest x hx l hl
      simp only
      omega
    · rw [List.mem_singleton.1 hx] at hl
      exact hl.le hrun
  · refine ⟨j, by simp, rfl, hrun, fun x hx hl => ?_⟩
    rcases List.mem_append.1 hx with hx | hx
    · have hle := h.longest x hx k hl
      have hxj := hlater x hx
      split
      next => exact Nat.le_of_lt hxj
      next htie => exact absurd (hbetter.resolve_right fun ⟨ht, _⟩ => htie ht) (Nat.not_lt.2 hle)
    · rw [List.mem_singleton.1 hx]
      split <;> exact le_refl j

/-- A run at a later start that is no better changes nothing. -/
theorem BestRun.keep (hworse : ¬ betterRun p k q.2 = true) : BestRun p m src n i (js ++ [j]) q := by
  rw [betterRun_iff] at hworse
  refine ⟨h.none, fun x hx l hl => ?_, fun hpos => ?_⟩
  · rcases List.mem_append.1 hx with hx | hx
    · exact h.longest x hx l hl
    · rw [List.mem_singleton.1 hx] at hl
      have hsame := hl.le hrun
      omega
  · obtain ⟨x, hx, hdist, hbest, hfirst⟩ := h.start hpos
    refine ⟨x, List.mem_append_left _ hx, hdist, hbest, fun y hy hl => ?_⟩
    rcases List.mem_append.1 hy with hy | hy
    · exact hfirst y hy hl
    · rw [List.mem_singleton.1 hy] at hl ⊢
      have hsame := hrun.unique hl
      have hxj := hlater x hx
      split
      next htie => exact absurd (.inr ⟨htie, hsame, by omega⟩) hworse
      next => omega

end Candidate

/-- The search over rising starts keeps the best run. -/
theorem bestRun_foldl (hrising : js.Pairwise (· < ·)) :
    BestRun p m src n i js (js.foldl (tryCandidate p m src n i) (0, 0)) := by
  induction js using List.reverseRecOn with
  | nil => exact .nil
  | append_singleton js j ih =>
    obtain ⟨hjs, -, hlater⟩ := List.pairwise_append.1 hrising
    have hbest := ih hjs
    have hlast : ∀ x ∈ js, x < j := fun x hx => hlater x hx j (List.mem_singleton_self j)
    have hrun := runLength_isRun m src n i j
    rw [List.foldl_append, List.foldl_cons, List.foldl_nil]
    generalize js.foldl (tryCandidate p m src n i) (0, 0) = q at hbest
    unfold tryCandidate
    dsimp only
    split
    next hbetter => exact hbest.replace hlast hrun hbetter
    next hworse => exact hbest.keep hlast hrun hworse

/-- The starts searched are the candidates, for every window: with a window of 0 there are none (42_codec.md R173). -/
theorem mem_searched_iff_candidate (p : Params) (i window j : Nat) :
    j ∈ List.range' (firstCandidate p i window) (i - firstCandidate p i window) ↔ Candidate p i window j := by
  rcases Nat.eq_zero_or_pos window with rfl | hw
  · rw [List.mem_range'_1]
    unfold Candidate firstCandidate
    split <;> omega
  · exact mem_searched_iff hw

end Search

/-- Settles O55: the starts searched rise and are the candidates, and the search keeps the best of their runs. -/
theorem findMatchKeepsALongestRun : Obligations.FindMatchKeepsALongestRun := by
  intro p m src n i window pos len _ hfind
  have hbest : BestRun p m src n i _ (findMatch p m src n i window) := bestRun_foldl List.pairwise_lt_range'
  rw [hfind] at hbest
  obtain ⟨hnone, hlongest, hstart⟩ := hbest
  simp only [mem_searched_iff_candidate] at hlongest hstart
  refine ⟨fun hlen => ⟨hnone hlen, fun j hj => ?_⟩, fun hlen => ?_⟩
  · have hrun := runLength_isRun m src n i j
    have hle := hlongest j hj _ hrun
    rw [hlen, Nat.le_zero] at hle
    rwa [hle] at hrun
  · obtain ⟨j, hj, hpos, hrun, hfirst⟩ := hstart hlen
    exact ⟨j, hj, hpos, hrun, fun j' k hj' hk => ⟨hlongest j' hj' k hk, fun heq => hfirst j' hj' (heq ▸ hk)⟩⟩

/-! ## Tokens -/

/-- Settles O52: the stream goes on after the code that `DecodeToken` takes. -/
theorem decodeTokenReadsTheTokenCode : Obligations.DecodeTokenReadsTheTokenCode := by
  intro c base t rest hdir hok herr hbase hmax hs
  obtain ⟨d, hd, htook⟩ := decodeToken_takes hbase hmax herr ((Channel.ok_of_read hdir).1 hok) hs
  have hread : d.dir = .read := htook.dir.trans hdir
  exact ⟨d, hd, htook.unread hs, hread, (Channel.ok_of_read hread).2 htook.cursor, htook.err⟩

end Sys2Proof.Machine
end

section
/-! The headers of CX.WHDR, CX.RHDR and CX.DECOMPRESS, and the windowBits operands that are refused (42_codec.md R171, R172,
R180 to R183). -/
namespace Sys2Proof.Machine

/-! ## Listed answers -/

section Reads
variable {c : Channel} {a total wb : Word} {more : List ReadAnswer}

/-- The session after a read transaction with a listed answer, ERR as the answer leaves it (20_memory.md R64). -/
def Channel.answered (answer : ReadAnswer) (more : List ReadAnswer) (e : Err) (c : Channel) : Channel :=
  { c with
    words := c.words + 1#64, err := e
    port := { c.port with readAnswers := more, trace := .asked answer :: c.port.trace } }

theorem portRead_of_word (he : c.err = .clear) (ha : c.port.readAnswers = .word a :: more) :
    portRead c = (a, c.answered (.word a) more .clear) := by
  simp [portRead, Port.nextRead, Port.afterRead, ha, Channel.answered, ← he]

theorem portRead_of_fail (he : c.err = .clear) (ha : c.port.readAnswers = .fail :: more) :
    portRead c = (0#64, c.answered .fail more .ioFailure) := by
  simp [portRead, Port.nextRead, Port.afterRead, ha, Channel.answered, Channel.setErr, he]

/-- Both header words are listed (42_codec.md R172). -/
theorem readHeader_of_words (he : c.err = .clear) (ha : c.port.readAnswers = .word total :: .word wb :: more) :
    readHeader c
      = (some (total, wb), (c.answered (.word total) (.word wb :: more) .clear).answered (.word wb) more .clear) := by
  rw [readHeader, portRead_of_word he ha]
  rfl

theorem readHeader_of_fail_second (he : c.err = .clear) (ha : c.port.readAnswers = .word total :: .fail :: more) :
    readHeader c
      = (none, (c.answered (.word total) (.fail :: more) .clear).answered .fail more .ioFailure) := by
  rw [readHeader, portRead_of_word he ha]
  rfl

theorem readHeader_of_fail_first (he : c.err = .clear) (ha : c.port.readAnswers = .fail :: more) :
    readHeader c = (none, c.answered .fail more .ioFailure) := by
  rw [readHeader, portRead_of_fail he ha]
  rfl

end Reads

/-! ## The check of windowBits (42_codec.md R170) -/

section WindowBits
variable {c : Channel} {wb : Word}

theorem Channel.setErr_eq_of_clear (h : c.err = .clear) (e : Err) : c.setErr e = { c with err := e } := if_pos h

theorem validWB_iff : validWB wb = true ↔ 10 ≤ wb.toNat ∧ wb.toNat ≤ 20 := by simp [validWB]

theorem validWB_eq_false (h : ¬ (10 ≤ wb.toNat ∧ wb.toNat ≤ 20)) : validWB wb = false :=
  Bool.eq_false_iff.2 fun hv => h (validWB_iff.1 hv)

/-- An illegal windowBits makes ERR InvalidParameter (42_codec.md R181). -/
theorem setErr_of_windowBits (h : c.err = .clear) (wb : Word) :
    (if validWB wb = false then c.setErr .invalidParameter else c)
      = { c with err := if 10 ≤ wb.toNat ∧ wb.toNat ≤ 20 then .clear else .invalidParameter } := by
  by_cases hwb : 10 ≤ wb.toNat ∧ wb.toNat ≤ 20
  · rw [if_pos hwb, if_neg (by simp [validWB_iff.2 hwb]), ← h]
  · rw [if_neg hwb, if_pos (validWB_eq_false hwb), Channel.setErr_eq_of_clear h]

end WindowBits

/-! ## CX.WHDR -/

section Whdr
variable {s : State} {c : Channel}

theorem exec_cxWhdr_of_illegal (hdir : s.chan.dir = .write) (herr : s.chan.err = .clear)
    (hwb : ¬ (10 ≤ s.arg1.toNat ∧ s.arg1.toNat ≤ 20)) :
    exec .cxWhdr s = .next { s with chan := { s.chan with err := .invalidParameter }, busy := false } := by
  change execCxWhdr s = _
  rw [execCxWhdr, if_neg (not_not.2 hdir), if_neg (not_not.2 herr), if_pos (validWB_eq_false hwb),
    Channel.setErr_eq_of_clear herr]
  rfl

theorem exec_cxWhdr_of_legal (hdir : s.chan.dir = .write) (herr : s.chan.err = .clear)
    (hlow : 10 ≤ s.arg1.toNat) (hhigh : s.arg1.toNat ≤ 20) :
    exec .cxWhdr s = .next (s.withSession (writeHeader s.arg0 s.arg1 s.chan)) := by
  change execCxWhdr s = _
  rw [execCxWhdr, if_neg (not_not.2 hdir), if_neg (not_not.2 herr), if_neg (by simp [validWB_iff.2 ⟨hlow, hhigh⟩])]
  rfl

/-- After a refused first header word the second is not offered (42_codec.md R171). -/
theorem writeHeader_of_refused (he : c.err = .clear) (ha : c.port.nextWrite = .fail) (total wb : Word) :
    writeHeader total wb c = portWrite total c := by
  have hio := portWrite_err he total
  rw [ha] at hio
  simp [writeHeader, hio]

/-- After an accepted first header word the second is offered (42_codec.md R171). -/
theorem writeHeader_of_accepted (he : c.err = .clear) (ha : c.port.nextWrite = .ok) (total wb : Word) :
    writeHeader total wb c = portWrite wb (portWrite total c) :=
  if_neg (not_not.2 ((portWrite_err_clear_iff total).2 ⟨he, ha⟩))

end Whdr

/-- Settles O46: an illegal windowBits stops before the port, and the host's answers say how far the header goes. -/
theorem whdrWritesTheHeader : Obligations.WhdrWritesTheHeader := by
  intro s hdir herr
  refine ⟨exec_cxWhdr_of_illegal hdir herr, fun hlow hhigh => ?_⟩
  refine ⟨_, exec_cxWhdr_of_legal hdir herr hlow hhigh, rfl, (writeHeader_dir _ _ _).trans hdir, writeHeader_acc _ _ _,
    writeHeader_cursor _ _ _, fun ha => ?_, fun ha => ?_⟩
  · obtain ⟨hio, hwords⟩ := writeHeader_refused_first herr ha s.arg0 s.arg1
    refine ⟨hwords, hio, ?_⟩
    change (writeHeader s.arg0 s.arg1 s.chan).port.trace = _
    rw [writeHeader_of_refused herr ha, portWrite_port, Port.afterWrite_trace, ha]
  · have hfirst : (portWrite s.arg0 s.chan).err = .clear := (portWrite_err_clear_iff s.arg0).2 ⟨herr, ha⟩
    refine ⟨(portWrite s.arg0 s.chan).port.nextWrite, ?_⟩
    rw [State.withSession, writeHeader_of_accepted herr ha]
    refine ⟨?_, ?_, ?_, fun first second more hanswers => ?_⟩
    · change (portWrite s.arg1 (portWrite s.arg0 s.chan)).words = _
      rw [portWrite_words, portWrite_words, BitVec.add_assoc]
      rfl
    · refine (portWrite_err hfirst s.arg1).trans ?_
      cases (portWrite s.arg0 s.chan).port.nextWrite <;> rfl
    · change (portWrite s.arg1 (portWrite s.arg0 s.chan)).port.trace = _
      rw [portWrite_port, Port.afterWrite_trace, portWrite_port, Port.afterWrite_trace, ha]
    · have hnext : (portWrite s.arg0 s.chan).port.writeAnswers = second :: more := by
        rw [portWrite_port, Port.afterWrite_writeAnswers hanswers]
      refine ⟨Port.nextWrite_cons hnext, ?_⟩
      change (portWrite s.arg1 (portWrite s.arg0 s.chan)).port.writeAnswers = _
      rw [portWrite_port, Port.afterWrite_writeAnswers hnext]

/-! ## CX.RHDR -/

section Rhdr
variable {s : State} {c : Channel} {total wb : Word}

theorem exec_cxRhdr_of_header (hdir : s.chan.dir = .read) (herr : s.chan.err = .clear) (hc : c.err = .clear)
    (h : readHeader s.chan = (some (total, wb), c)) :
    exec .cxRhdr s = .next { s with
      res0 := total, res1 := wb, busy := false
      chan := { c with err := if 10 ≤ wb.toNat ∧ wb.toNat ≤ 20 then .clear else .invalidParameter } } := by
  change execCxRhdr s = _
  rw [execCxRhdr, if_neg (not_not.2 hdir), if_neg (not_not.2 herr), h]
  dsimp only
  rw [setErr_of_windowBits hc]
  rfl

theorem exec_cxRhdr_of_failed (hdir : s.chan.dir = .read) (herr : s.chan.err = .clear)
    (h : readHeader s.chan = (none, c)) : exec .cxRhdr s = .next { s with busy := false, chan := c } := by
  change execCxRhdr s = _
  rw [execCxRhdr, if_neg (not_not.2 hdir), if_neg (not_not.2 herr), h]
  rfl

end Rhdr

/-- Settles O47: the header words listed, or the first or the second of the two reads failed. -/
theorem rhdrReadsTheHeader : Obligations.RhdrReadsTheHeader := by
  intro s more hdir herr
  refine ⟨fun total wb ha => ?_, fun total ha => ?_, fun ha => ?_⟩
  · rw [exec_cxRhdr_of_header hdir herr rfl (readHeader_of_words herr ha)]
    simp only [Channel.answered, BitVec.add_assoc]
    rfl
  · rw [exec_cxRhdr_of_failed hdir herr (readHeader_of_fail_second herr ha)]
    simp only [Channel.answered, BitVec.add_assoc]
    rfl
  · exact exec_cxRhdr_of_failed hdir herr (readHeader_of_fail_first herr ha)

/-! ## CX.DECOMPRESS and CX.COMPRESS -/

/-- Settles O51: the two header words are read and the session ends with InvalidParameter before a token. -/
theorem decompressRejectsAForeignHeader : Obligations.DecompressRejectsAForeignHeader := by
  intro s nh hwb more hdir herr hbuf hlow hhigh ha hforeign
  have hheader := readHeader_of_words (c := s.chan.fresh) herr ha
  have hreject : validWB hwb = false ∨ hwb ≠ s.arg2 ∨ s.arg1.toNat < nh.toNat := .inr hforeign
  rw [exec_cxDecompress hdir hbuf, decompress_header herr hlow hhigh (congrArg Prod.fst hheader), if_pos hreject,
    decompressStart, hheader]
  simp only [Channel.answered, BitVec.add_assoc]
  rfl

/-- Settles O53: both commands check the operand before the port and before the session starts afresh. -/
theorem illegalWindowBitsMakesNoTransaction : Obligations.IllegalWindowBitsMakesNoTransaction := by
  intro s herr hbuf hwb
  have hillegal := validWB_eq_false hwb
  refine ⟨fun hdir => ?_, fun hdir => ?_⟩
  · change execCxCompress s = _
    rw [execCxCompress, if_neg (not_not.2 hdir), if_neg (by simp [bufferOk_of_le hbuf]), compress,
      if_neg (not_not.2 herr), if_pos hillegal, Channel.setErr_eq_of_clear herr]
    rfl
  · rw [exec_cxDecompress hdir hbuf, decompress, if_neg (not_not.2 herr), if_pos hillegal, Channel.setErr_eq_of_clear herr]
    rfl

end Sys2Proof.Machine
end

section
/-! Faults (60_exceptions.md): what a command answers when a check of R229 fails, the precision of the record (R226, R232), the
first error of a session (R222), and the block while it is faulted, busy or idle (R228, R233, R238). -/
namespace Sys2Proof.Machine

/-! ## How FAULT can come out of a command -/

/-- What command `i` answers in `s`: a fault of its own checks, a return with FAULT as it was, or, for the two commands that
mutate the heap, a new heap put to the debug check (60_exceptions.md R226, R229, R232). -/
inductive Answered (i : Instr) (s : State) : Result → Prop
  | raised {c : Cause} (hc : c ≠ .none ∧ c ≠ .invariantViolation) : Answered i s (raise c i s)
  | returned {u : State} (hu : u.faultCause = s.faultCause := by rfl)
      (hi : ¬ (i = .heapAdd ∨ i = .heapInc) := by decide) : Answered i s (complete u)
  | checked (hi : i = .heapAdd ∨ i = .heapInc) (q : Nat × Fhu) : Answered i s (.next (s.mutated i q))

section Answers
variable {i : Instr} {s t : State}

/-- A check before the rest of a command. -/
theorem Answered.ite {p : Prop} [Decidable p] {a b : Result} (ha : Answered i s a) (hb : Answered i s b) :
    Answered i s (if p then a else b) := by
  split
  · exact ha
  · exact hb

/-- A first check that raises `c`. -/
theorem Answered.guard {p : Prop} [Decidable p] {b : Result} (c : Cause) (hb : Answered i s b)
    (hc : c ≠ .none ∧ c ≠ .invariantViolation := by decide) : Answered i s (if p then raise c i s else b) :=
  .ite (.raised hc) hb

theorem execCxRhdr_answered (s : State) : Answered .cxRhdr s (execCxRhdr s) := by
  refine .guard .noSession (.ite .returned ?_)
  dsimp only
  split
  · exact .returned
  · exact .returned

/-- What any command answers, check by check. -/
theorem exec_answered (i : Instr) (s : State) : Answered i s (exec i s) := by
  cases i with
  | heapInit => exact .returned
  | heapAdd =>
    exact .guard .symbolRange (.guard .symbolDuplicate (.guard .heapFull
      (.checked (.inl rfl) (s.fhu.add s.arg0.toNat))))
  | heapInc =>
    exact .guard .symbolRange (.guard .symbolAbsent
      (.checked (.inr rfl) (s.fhu.bump (s.fhu.tableAt s.arg0.toNat).toNat)))
  | heapPath => exact .guard .symbolRange (.ite .returned .returned)
  | heapVerify => exact .returned
  | heapRdnode => exact .guard .operandRange .returned
  | heapRdtab => exact .guard .symbolRange .returned
  | bcOpenw => exact .returned
  | bcOpenr => exact .returned
  | bcClose => exact .returned
  | bcWbit => exact .guard .noSession .returned
  | bcWbits => exact .guard .noSession (.guard .operandRange .returned)
  | bcWnum => exact .guard .noSession (.guard .operandRange (.ite .returned .returned))
  | bcFlush => exact .guard .noSession .returned
  | bcRbit => exact .guard .noSession .returned
  | bcRbits => exact .guard .noSession (.guard .operandRange .returned)
  | bcRnum => exact .guard .noSession (.guard .operandRange .returned)
  | cxWhdr =>
    exact .guard .noSession (.ite .returned (.ite .returned .returned))
  | cxRhdr => exact execCxRhdr_answered s
  | cxCompress => exact .guard .noSession (.guard .badAddress .returned)
  | cxDecompress =>
    exact .guard .noSession (.guard .badAddress (.returned (State.setHeader_faultCause s _)))

/-- How a command ends that started with FAULT clear (60_exceptions.md R226, R232). -/
theorem exec_next_cases (hclear : s.faultCause = .none) (h : exec i s = .next t) :
    (∃ c, (c ≠ .none ∧ c ≠ .invariantViolation)
        ∧ t = { s with faultCause := c, faultWord := encode i, busy := false })
      ∨ (¬ (i = .heapAdd ∨ i = .heapInc) ∧ t.faultCause = .none)
      ∨ ((i = .heapAdd ∨ i = .heapInc) ∧ ∃ q, t = s.mutated i q) := by
  have answer := exec_answered i s
  generalize exec i s = r at answer h
  cases answer with
  | @raised c hc => exact .inl ⟨c, hc, by rw [raise_next h, State.raiseFault_of_clear hclear]⟩
  | @returned u hu hi => exact .inr (.inl ⟨hi, by rw [complete_next h, State.finish_faultCause, hu, hclear]⟩)
  | checked hi q =>
    injection h with h
    exact .inr (.inr ⟨hi, q, h.symm⟩)

/-- The debug check and `verify()`: InvariantViolation with the command's word exactly where DEBUG_VERIFY is 1 and the check
fails (60_exceptions.md R232). -/
theorem State.mutated_fault_cases (hclear : s.faultCause = .none) (q : Nat × Fhu) :
    (s.param.debugVerify = true ∧ q.2.verify s.param = false ∧ (s.mutated i q).faultCause = .invariantViolation
        ∧ (s.mutated i q).faultWord = encode i)
      ∨ ((s.param.debugVerify = true → q.2.verify s.param = true) ∧ (s.mutated i q).faultCause = .none) := by
  cases hdebug : s.param.debugVerify with
  | false => exact .inr ⟨fun h => absurd h (by decide), (State.mutated_fault_kept (.inl hdebug)).1.trans hclear⟩
  | true =>
    cases hverify : q.2.verify s.param with
    | false =>
      obtain ⟨hcause, hword⟩ := State.mutated_fault_recorded (i := i) hclear hdebug hverify
      exact .inl ⟨rfl, rfl, hcause, hword⟩
    | true => exact .inr ⟨fun _ => rfl, (State.mutated_fault_kept (.inr hverify)).1.trans hclear⟩

end Answers

/-- Settles O19: a fault of a command's own checks is recorded with nothing else done; every other command returns with FAULT
clear, or has put the heap it leaves to the debug check. -/
theorem faultsArePrecise : Obligations.FaultsArePrecise := by
  intro i s t hclear h
  rcases exec_next_cases hclear h with ⟨c, ⟨hnone, hviol⟩, rfl⟩ | ⟨hi, hnone⟩ | ⟨hi, q, rfl⟩
  · exact ⟨fun _ => ⟨rfl, fun _ => rfl, fun hc => absurd hc hviol⟩, fun hc => absurd hc hnone⟩
  · exact ⟨fun hc => absurd hnone hc, fun _ hi' => absurd hi' hi⟩
  · rw [State.mutated_fhu]
    rcases State.mutated_fault_cases (i := i) hclear q with ⟨hdebug, hfail, hcause, hword⟩ | ⟨hok, hnone⟩
    · refine ⟨fun _ => ⟨hword, fun hc => absurd hcause hc, fun _ => ⟨hi, hdebug, hfail⟩⟩, fun hc => ?_⟩
      rw [hcause] at hc
      cases hc
    · exact ⟨fun hc => absurd hnone hc, fun _ _ => hok⟩

/-! ## The first error of a session (60_exceptions.md R222) -/

section FirstError
variable {c d : Channel}

theorem Channel.setErr_of_err (h : c.err ≠ .clear) (e : Err) : c.setErr e = c := if_neg h

theorem Channel.setErr_err (c : Channel) (e : Err) : (c.setErr e).err = if c.err = .clear then e else c.err := by
  by_cases h : c.err = .clear
  · rw [if_pos h, Channel.setErr_of_clear h]
  · rw [if_neg h, Channel.setErr_of_err h]

/-- With an error set, a failed write transaction sets no other (20_memory.md R63). -/
theorem portWrite_err_of_err (h : c.err ≠ .clear) (w : Word) : (portWrite w c).err = c.err := by
  unfold portWrite
  dsimp only
  split
  · rfl
  · rw [Channel.setErr_err, if_neg h]

/-- With an error set, a failed read transaction sets no other (20_memory.md R64). -/
theorem portRead_err_of_err (h : c.err ≠ .clear) : (portRead c).2.err = c.err := by
  unfold portRead
  dsimp only
  split
  · rfl
  · rw [Channel.setErr_err, if_neg h]

/-- The primitives of a write session keep a set error. -/
theorem Channel.Writes.err_of_err (h : c.Writes d) (hset : c.err ≠ .clear) : d.err = c.err := by
  induction h with
  | refl => rfl
  | bit b _ ih => rw [writeBit_of_err (ih ▸ hset), ih]
  | word w _ ih => rw [portWrite_err_of_err (ih ▸ hset), ih]
  | flush _ ih => rw [flush_of_err (ih ▸ hset), ih]
  | setErr e _ ih => rw [Channel.setErr_of_err (ih ▸ hset), ih]
  | fresh _ ih => rw [Channel.fresh_err, ih]

/-- The primitives of a read session keep a set error. -/
theorem Channel.Reads.err_of_err (h : c.Reads d) (hset : c.err ≠ .clear) : d.err = c.err := by
  induction h with
  | refl => rfl
  | bit _ ih => rw [readBit_of_err (ih ▸ hset), ih]
  | word _ ih => rw [portRead_err_of_err (ih ▸ hset), ih]
  | setErr e _ ih => rw [Channel.setErr_of_err (ih ▸ hset), ih]
  | fresh _ ih => rw [Channel.fresh_err, ih]

/-- Every command but the two that open a session keeps a set error. -/
theorem ChanEffect.err_of_err {i : Instr} (h : ChanEffect i c d) (hi : ¬ (i = .bcOpenw ∨ i = .bcOpenr))
    (hset : c.err ≠ .clear) : d.err = c.err := by
  induction h with
  | same => rfl
  | opened ho _ => exact absurd ho hi
  | wrote _ hw => exact hw.err_of_err hset
  | read _ hr => exact hr.err_of_err hset
  | closed _ ih => exact ih

end FirstError

/-- Settles O20: what each command can make of the session keeps a set error. -/
theorem firstErrorWins : Obligations.FirstErrorWins :=
  ⟨Channel.setErr_err, fun _ _ _ hw hr hset h => (exec_ended h).chan.err_of_err (not_or.2 ⟨hw, hr⟩) hset⟩

/-! ## The faulted, the busy and the idle block -/

section Access
variable {s : State} {rest : List HostAction}

/-- While a fault is recorded a CMD write is refused with no state change (60_exceptions.md R228). -/
theorem issue_of_faulted (hf : s.faultCause ≠ .none) (v : Word) : issue v s = .next s :=
  if_pos (decide_eq_true hf)

/-- With BUSY 0 a register other than CMD is written, whatever FAULT holds (60_exceptions.md R228). -/
theorem step_regWrite {offset : Nat} {v : Word} (hb : s.busy = false)
    (hp : s.pending = .regWrite 64 (s.param.regBase + offset) v :: rest) (ha : offset % 8 = 0) (hw : offset < 0x80)
    (hcmd : offset ≠ 0x08) : step s = .next (({ s with pending := rest } : State).writeReg offset v) := by
  rw [step_pending hp, act_regWrite { s with pending := rest } v ha hw, hostWrite, if_neg (by simp [hb]), if_neg hcmd]

/-- A CMD write to a faulted block is taken and does nothing (60_exceptions.md R228). -/
theorem step_cmdWrite_of_faulted {v : Word} (hf : s.faultCause ≠ .none) (hb : s.busy = false)
    (hp : s.pending = .regWrite 64 (s.param.regBase + 0x08) v :: rest) : step s = .next { s with pending := rest } := by
  calc step s = act (.regWrite 64 (s.param.regBase + 0x08) v) { s with pending := rest } := step_pending hp
    _ = hostWrite 0x08 v { s with pending := rest } := act_regWrite { s with pending := rest } v (by decide) (by decide)
    _ = issue v { s with pending := rest } := by simp [hostWrite, hb]
    _ = .next { s with pending := rest } := issue_of_faulted (s := { s with pending := rest }) hf v

end Access

/-- Settles O6, action by action. -/
theorem faultedStateRefusesCommands : Obligations.FaultedStateRefusesCommands := by
  intro s rest hf hb
  refine ⟨fun v hp => step_cmdWrite_of_faulted hf hb hp, fun off ha hw hp => ?_, fun v hp => ?_, fun v hp => ?_,
    fun v hp => ?_, fun v hp => ?_, fun a b hin hp => ?_, fun a hin hp => ?_, fun hp => ?_⟩
  · exact (step_pending hp).trans (act_regRead { s with pending := rest } ha hw)
  · exact step_regWrite hb hp (by decide) (by decide) (by decide)
  · exact step_regWrite hb hp (by decide) (by decide) (by decide)
  · exact step_regWrite hb hp (by decide) (by decide) (by decide)
  · exact step_regWrite hb hp (by decide) (by decide) (by decide)
  · exact (step_pending hp).trans (act_memWrite { s with pending := rest } hin hb b)
  · exact (step_pending hp).trans (act_memRead { s with pending := rest } hin hb)
  · exact ⟨_, step_pending hp, rfl, rfl⟩

theorem step_of_no_action {s : State} (hp : s.pending = []) : step s = idle s := by
  simp only [step, hp]

/-- Settles O13: the word in progress decodes to its command. -/
theorem runningCommandCompletes : Obligations.RunningCommandCompletes := by
  intro s i hp hb hw
  calc step s = idle s := step_of_no_action hp
    _ = runCommand (s.cmdWord.setWidth 64) s := if_pos hb
    _ = runCommand (cmdValue i) s := by rw [hw]; rfl
    _ = exec i s := runCommand_of_ok s (decode_cmdValue i)

/-- Settles O14. -/
theorem idleBlockHoldsItsState : Obligations.IdleBlockHoldsItsState :=
  fun _ hp hb => (step_of_no_action hp).trans (if_neg (by simp [hb]))

/-! ## The checks of a command, in their order (60_exceptions.md R229) -/

section Checks
variable {i : Instr} {s : State}

/-- A fault raised with FAULT clear (60_exceptions.md R226). -/
theorem raise_of_clear (hclear : s.faultCause = .none) (c : Cause) (i : Instr) :
    raise c i s = .next { s with faultCause := c, faultWord := encode i, busy := false } := by
  rw [raise_eq, State.raiseFault_of_clear hclear]

/-- The direction is the first check of a writing command. -/
theorem exec_of_dir_ne_write (hi : i ∈ [Instr.bcWbit, .bcWbits, .bcWnum, .bcFlush, .cxWhdr, .cxCompress])
    (hdir : s.chan.dir ≠ .write) : exec i s = raise .noSession i s := by
  simp only [List.mem_cons, List.not_mem_nil, or_false] at hi
  rcases hi with rfl | rfl | rfl | rfl | rfl | rfl
  all_goals exact if_pos hdir

/-- The direction is the first check of a reading command. -/
theorem exec_of_dir_ne_read (hi : i ∈ [Instr.bcRbit, .bcRbits, .bcRnum, .cxRhdr, .cxDecompress])
    (hdir : s.chan.dir ≠ .read) : exec i s = raise .noSession i s := by
  simp only [List.mem_cons, List.not_mem_nil, or_false] at hi
  rcases hi with rfl | rfl | rfl | rfl | rfl
  all_goals exact if_pos hdir

theorem bitCountOk_eq_false {v : Word} (h : 64 < v.toNat) : bitCountOk v = false :=
  decide_eq_false (Nat.not_le.2 h)

theorem baseOk_eq_false {v : Word} (h : v.toNat = 0 ∨ 64 < v.toNat) : baseOk v = false := by
  rw [baseOk, Bool.and_eq_false_iff, decide_eq_false_iff_not, decide_eq_false_iff_not]
  omega

theorem symbolOk_eq_false {p : Params} {v : Word} (h : p.n ≤ v.toNat) : symbolOk p v = false :=
  decide_eq_false (Nat.not_lt.2 h)

theorem nodeOk_eq_false {p : Params} {v : Word} (h : p.cap ≤ v.toNat) : nodeOk p v = false :=
  decide_eq_false (Nat.not_lt.2 h)

theorem bufferOk_eq_false {p : Params} {start n : Word} (h : 2 ^ p.aw < start.toNat + n.toNat) :
    bufferOk p start n = false :=
  decide_eq_false (Nat.not_le.2 h)

/-- A symbol out of range, for each of the four commands that take one (40_heap.md R100). -/
theorem exec_of_symbol_out (hi : i ∈ [Instr.heapAdd, .heapInc, .heapPath, .heapRdtab]) (h : s.param.n ≤ s.arg0.toNat) :
    exec i s = raise .symbolRange i s := by
  simp only [List.mem_cons, List.not_mem_nil, or_false] at hi
  rcases hi with rfl | rfl | rfl | rfl
  all_goals exact if_pos (symbolOk_eq_false h)

theorem exec_heapRdnode_of_out (h : s.param.cap ≤ s.arg0.toNat) : exec .heapRdnode s = raise .operandRange .heapRdnode s :=
  if_pos (nodeOk_eq_false h)

theorem exec_heapAdd_of_present (hs : s.arg0.toNat < s.param.n) (hne : s.fhu.tableAt s.arg0.toNat ≠ absent) :
    exec .heapAdd s = raise .symbolDuplicate .heapAdd s :=
  (if_neg (by simp [(symbolOk_iff _ _).2 hs])).trans (if_pos hne)

theorem exec_heapAdd_of_full (hs : s.arg0.toNat < s.param.n) (habs : s.fhu.tableAt s.arg0.toNat = absent)
    (hfull : s.param.cap < s.fhu.nc.toNat + s.fhu.need) : exec .heapAdd s = raise .heapFull .heapAdd s :=
  (if_neg (by simp [(symbolOk_iff _ _).2 hs])).trans ((if_neg (not_not.2 habs)).trans (if_pos hfull))

theorem exec_heapInc_of_absent (hs : s.arg0.toNat < s.param.n) (habs : s.fhu.tableAt s.arg0.toNat = absent) :
    exec .heapInc s = raise .symbolAbsent .heapInc s :=
  (if_neg (by simp [(symbolOk_iff _ _).2 hs])).trans (if_pos habs)

theorem exec_bcWbits_of_count (hdir : s.chan.dir = .write) (h : 64 < s.arg1.toNat) :
    exec .bcWbits s = raise .operandRange .bcWbits s :=
  (if_neg (not_not.2 hdir)).trans (if_pos (bitCountOk_eq_false h))

theorem exec_bcWnum_of_base (hdir : s.chan.dir = .write) (h : s.arg1.toNat = 0 ∨ 64 < s.arg1.toNat) :
    exec .bcWnum s = raise .operandRange .bcWnum s :=
  (if_neg (not_not.2 hdir)).trans (if_pos (baseOk_eq_false h))

theorem exec_bcRbits_of_count (hdir : s.chan.dir = .read) (h : 64 < s.arg0.toNat) :
    exec .bcRbits s = raise .operandRange .bcRbits s :=
  (if_neg (not_not.2 hdir)).trans (if_pos (bitCountOk_eq_false h))

theorem exec_bcRnum_of_base (hdir : s.chan.dir = .read) (h : s.arg0.toNat = 0 ∨ 64 < s.arg0.toNat) :
    exec .bcRnum s = raise .operandRange .bcRnum s :=
  (if_neg (not_not.2 hdir)).trans (if_pos (baseOk_eq_false h))

theorem exec_cxCompress_of_buffer (hdir : s.chan.dir = .write) (h : 2 ^ s.param.aw < s.arg0.toNat + s.arg1.toNat) :
    exec .cxCompress s = raise .badAddress .cxCompress s :=
  (if_neg (not_not.2 hdir)).trans (if_pos (bufferOk_eq_false h))

theorem exec_cxDecompress_of_buffer (hdir : s.chan.dir = .read) (h : 2 ^ s.param.aw < s.arg0.toNat + s.arg1.toNat) :
    exec .cxDecompress s = raise .badAddress .cxDecompress s :=
  (if_neg (not_not.2 hdir)).trans (if_pos (bufferOk_eq_false h))

end Checks

/-- Settles O23: the direction is checked before the operands and before ERR. -/
theorem wrongDirectionFaultsWithNoSession : Obligations.WrongDirectionFaultsWithNoSession := by
  intro i s hclear
  rw [← raise_of_clear hclear]
  exact ⟨exec_of_dir_ne_write, exec_of_dir_ne_read⟩

/-- Settles O24, check by check. -/
theorem operandChecksFault : Obligations.OperandChecksFault := by
  intro s hclear
  have recorded := raise_of_clear hclear
  refine ⟨fun hdir h => (exec_bcWbits_of_count hdir h).trans (recorded _ _),
    fun hdir h => (exec_bcWnum_of_base hdir h).trans (recorded _ _),
    fun hdir h => (exec_bcRbits_of_count hdir h).trans (recorded _ _),
    fun hdir h => (exec_bcRnum_of_base hdir h).trans (recorded _ _),
    fun h => (exec_heapRdnode_of_out h).trans (recorded _ _), fun h => ⟨?_, ?_, ?_, ?_⟩,
    fun hs hne => (exec_heapAdd_of_present hs hne).trans (recorded _ _),
    fun hs habs => ⟨(exec_heapInc_of_absent hs habs).trans (recorded _ _),
      fun hfull => (exec_heapAdd_of_full hs habs hfull).trans (recorded _ _)⟩,
    fun h => ⟨fun hdir => (exec_cxCompress_of_buffer hdir h).trans (recorded _ _),
      fun hdir => (exec_cxDecompress_of_buffer hdir h).trans (recorded _ _)⟩⟩
  all_goals exact (exec_of_symbol_out (by decide) h).trans (recorded _ _)

end Sys2Proof.Machine
end

section
/-! Totality and reset (70_reset_and_hazards.md): every command answers a next state and leaves the operands and the host's side
alone (R272), and the reset action gives every piece of block state its reset value (R260). -/
namespace Sys2Proof.Machine

/-! ## Every command ends -/

/-- The ARG registers, the word in progress and the model's fields for the host are the same (10_state.md R35). -/
def State.SameOperands (s t : State) : Prop :=
  t.arg0 = s.arg0 ∧ t.arg1 = s.arg1 ∧ t.arg2 = s.arg2
    ∧ t.cmdWord = s.cmdWord ∧ t.pending = s.pending ∧ t.hostReads = s.hostReads

section Ends
variable {i : Instr} {s t u : State}

theorem Effects.sameOperands (h : Effects i s u) : s.SameOperands u := by
  rw [h.frame]
  exact ⟨rfl, rfl, rfl, rfl, rfl, rfl⟩

theorem Ended.sameOperands (h : Ended i s t) : s.SameOperands t := by
  cases h with
  | raised _ => simp [State.SameOperands]
  | completed hu => exact hu.sameOperands
  | checked hu => simpa [State.SameOperands] using hu.sameOperands

/-- A fault, a return and a debug check are all next states (60_exceptions.md R226). -/
theorem Answered.exists_next {r : Result} (h : Answered i s r) : ∃ t, r = .next t := by
  cases h with
  | raised _ => exact ⟨_, raise_eq ..⟩
  | returned _ _ => exact ⟨_, complete_eq _⟩
  | checked _ _ => exact ⟨_, rfl⟩

end Ends

/-- Settles O16: each way a command answers is a next state, and each way it ends writes none of these fields. -/
theorem everyCommandEndsAndKeepsOperands : Obligations.EveryCommandEndsAndKeepsOperands := by
  intro i s
  obtain ⟨t, ht⟩ := (exec_answered i s).exists_next
  have hended : Ended i s t := exec_ended ht
  exact ⟨t, ht, hended.busy, hended.param, hended.sameOperands⟩

/-! ## The reset action -/

/-- The cleared heap with the codes for INTERNAL and ABSENT written out (10_state.md R21 to R24). -/
theorem Fhu.empty_eq (p : Params) : Fhu.empty p =
    { freq := List.replicate (2 * 2 ^ p.logN) 0#64
      sym := List.replicate (2 * 2 ^ p.logN) 0xFFFFFFFF#32
      table := List.replicate (2 ^ p.logN) 0xFFFFFFFF#32
      nc := 0#32 } := by
  have hones : BitVec.allOnes 32 = 0xFFFFFFFF#32 := by decide
  rw [Fhu.empty, hones]
  rfl

/-- Settles O8: the step takes the pending reset, whose heap is the cleared one. -/
theorem resetActionSetsEveryPiece : Obligations.ResetActionSetsEveryPiece := by
  intro s rest hp
  refine ⟨0#32, ?_⟩
  rw [← Fhu.empty_eq]
  calc step s = act .reset { s with pending := rest } := step_pending hp
    _ = .next (State.resetAction { s with pending := rest }) := rfl

end Sys2Proof.Machine
end
